-- ==== Sys2Proof/Word.lean ====
section
/-! DEFINITION. The widths of the LCDC: bytes, nibbles, operation words and DDRAM addresses
(00_scope.md R8; 20_memory.md R40; 30_encoding.md R71). -/

namespace Sys2Proof

/-- A data byte, a command byte, a mode byte or an immediate operand. -/
abbrev Byte := BitVec 8

/-- Four bits: one physical transfer on the 4-bit bus, or a row field. -/
abbrev Nibble := BitVec 4

/-- The 16-bit operation word (R71). -/
abbrev OpWord := BitVec 16

/-- A DDRAM address of the device (R40). -/
abbrev Address := BitVec 7

/-- The display-on style bits and flags as single bits: 1 for true. -/
def bit1 (b : Bool) : BitVec 1 := BitVec.ofBool b

end Sys2Proof
end

