-- ==== Sys2Proof/Syntax.lean ====
section
/-! DEFINITION. The instructions: the ten host operations (format OPW) and the six command bytes
of the device (format CMD8), one constructor per row of spec/opcode_table.json. -/

namespace Sys2Proof

/-- What a transfer carries, selected by the register-select line (40_transport.md R100). -/
inductive Kind where
  | command
  | data
  deriving DecidableEq, Repr

/-- The level of `RS` that selects the kind: 0 command, 1 data (10_state.md R20). -/
def Kind.level : Kind → Bool
  | .command => false
  | .data => true

/-- The kind that a level of `RS` selects. -/
def Kind.ofLevel : Bool → Kind
  | false => .command
  | true => .data

/-- The instructions, operands in the assembler's order (30_encoding.md R88). -/
inductive Instr where
  /-- `INIT mode` (R150). -/
  | init (mode : Byte)
  /-- `WRCH d` (R153). -/
  | wrch (d : Byte)
  /-- `MOVE_TO col, row` (R133). -/
  | moveTo (col : Byte) (row : Nibble)
  /-- `HOME_TOP` (R134). -/
  | homeTop
  /-- `HOME_BOT` (R135). -/
  | homeBot
  /-- `CLEAR_ALL` (R157). -/
  | clearAll
  /-- `CLEAR_ROW row` (R158). -/
  | clearRow (row : Nibble)
  /-- `TOGGLE_POWER` (R160). -/
  | togglePower
  /-- `REMAIN` (R139). -/
  | remain
  /-- `XFER kind, byte` (R113). -/
  | xfer (kind : Kind) (byte : Byte)
  /-- The clear command (R79). -/
  | cmdClear
  /-- The return-home command; bit 0 is ignored by the device (R78, R80). -/
  | cmdHome (ignored : Bool)
  /-- The entry-mode-set command (R81). -/
  | cmdEntry (inc shift : Bool)
  /-- The display-control command (R82). -/
  | cmdDisplay (on cursor blink : Bool)
  /-- The function-set command; bits 1:0 are ignored by the device (R78, R83). -/
  | cmdFunction (bus8 two font11 : Bool) (ignored : BitVec 2)
  /-- The set-DDRAM-address command (R84). -/
  | cmdSetDdram (addr : Address)
  deriving DecidableEq, Repr

/-- The two formats of spec/opcode_table.json (R71, R78). -/
inductive Format where
  /-- A 16-bit operation word, presented by the host. -/
  | opw
  /-- An 8-bit command byte, taken by the device. -/
  | cmd8
  deriving DecidableEq, Repr

/-- The format an instruction is encoded in. -/
def Instr.format : Instr → Format
  | .init _ | .wrch _ | .moveTo _ _ | .homeTop | .homeBot | .clearAll | .clearRow _
  | .togglePower | .remain | .xfer _ _ => .opw
  | .cmdClear | .cmdHome _ | .cmdEntry _ _ | .cmdDisplay _ _ _ | .cmdFunction _ _ _ _
  | .cmdSetDdram _ => .cmd8

end Sys2Proof
end

