-- ==== Sys2Proof/WellFormed.lean ====
section
/-! DEFINITION. Which instruction may stand where. Every operand has exactly its field's width, so
no operand value is ill-formed (all 256 mode bytes, data bytes, columns and all 16 rows are legal
operands, 30_encoding.md R73, R74); what can be wrong is the port: the host presents operation
words and the device takes command bytes (R70, R78: the command bytes "are not operations of the
block"). -/

namespace Sys2Proof

/-- The instruction may be presented at a port of the given format. -/
def Instr.wellFormed (port : Format) (i : Instr) : Bool := i.format == port

/-- The instruction is one of the ten host operations. -/
def Instr.isHostOp (i : Instr) : Bool := i.wellFormed .opw

/-- The instruction is one of the six commands of the device. -/
def Instr.isCommand (i : Instr) : Bool := i.wellFormed .cmd8

end Sys2Proof
end

