-- ==== Sys2Proof/Decode.lean ====
section
/-! DEFINITION. Decoding and encoding: operation words by their fields `op`, `row`, `imm`
(30_encoding.md R71 to R73, R76), command bytes by their highest set bit (20_memory.md R58,
30_encoding.md R78 to R84); then the encoder and the match/mask table of R72 and R78. -/

namespace Sys2Proof

/-- Why a word or a byte is no instruction. -/
inductive DecodeError where
  /-- An operation word whose `op` is 0x0 or 0xB to 0xF (R76). -/
  | reservedOp
  /-- An operation word with a must-be-zero field that is not zero (R76). -/
  | nonzeroField
  /-- The command byte 0x00 (R58). -/
  | noCommand
  /-- A cursor-or-display-shift command, 0x10 to 0x1F (R58). -/
  | shiftCommand
  /-- A set-CGRAM-address command, 0x40 to 0x7F (R58). -/
  | cgramCommand
  deriving DecidableEq, Repr

/-- An encoded instruction: an operation word or a command byte. -/
inductive Code where
  | opw (w : OpWord)
  | cmd8 (b : Byte)
  deriving DecidableEq, Repr

/-- The port a code belongs to. -/
def Code.format : Code → Format
  | .opw _ => .opw
  | .cmd8 _ => .cmd8

/-- The field `op`, bits 15:12 (R71). -/
def opField (w : OpWord) : Nibble := w.extractLsb' 12 4

/-- The field `row`, bits 11:8 (R71). -/
def rowField (w : OpWord) : Nibble := w.extractLsb' 8 4

/-- The field `imm`, bits 7:0 (R71). -/
def immField (w : OpWord) : Byte := w.extractLsb' 0 8

/-- `XFER`'s kind, bit 8 of the word (R73). -/
def kindField (w : OpWord) : Kind := Kind.ofLevel (w.getLsbD 8)

/-- The zero bits of `XFER`, bits 11:9 (R72). -/
def xferZeroField (w : OpWord) : BitVec 3 := w.extractLsb' 9 3

/-- An instruction whose must-be-zero fields are zero, or the refusal of R76. -/
def needZero (zero : Bool) (i : Instr) : Except DecodeError Instr :=
  if zero then .ok i else .error .nonzeroField

/-- An operation word's meaning (R72, R73, R76). -/
def decodeOp (w : OpWord) : Except DecodeError Instr :=
  match (opField w).toNat with
  | 0x1 => needZero (rowField w == 0) (.init (immField w))
  | 0x2 => needZero (rowField w == 0) (.wrch (immField w))
  | 0x3 => .ok (.moveTo (immField w) (rowField w))
  | 0x4 => needZero (rowField w == 0 && immField w == 0) .homeTop
  | 0x5 => needZero (rowField w == 0 && immField w == 0) .homeBot
  | 0x6 => needZero (rowField w == 0 && immField w == 0) .clearAll
  | 0x7 => needZero (immField w == 0) (.clearRow (rowField w))
  | 0x8 => needZero (rowField w == 0 && immField w == 0) .togglePower
  | 0x9 => needZero (rowField w == 0 && immField w == 0) .remain
  | 0xA => needZero (xferZeroField w == 0) (.xfer (kindField w) (immField w))
  | _ => .error .reservedOp

/-- A command byte's meaning, by its highest set bit (20_memory.md R58). -/
def decodeCmd (b : Byte) : Except DecodeError Instr :=
  if b.getLsbD 7 then .ok (.cmdSetDdram (b.extractLsb' 0 7))
  else if b.getLsbD 6 then .error .cgramCommand
  else if b.getLsbD 5 then
    .ok (.cmdFunction (b.getLsbD 4) (b.getLsbD 3) (b.getLsbD 2) (b.extractLsb' 0 2))
  else if b.getLsbD 4 then .error .shiftCommand
  else if b.getLsbD 3 then .ok (.cmdDisplay (b.getLsbD 2) (b.getLsbD 1) (b.getLsbD 0))
  else if b.getLsbD 2 then .ok (.cmdEntry (b.getLsbD 1) (b.getLsbD 0))
  else if b.getLsbD 1 then .ok (.cmdHome (b.getLsbD 0))
  else if b.getLsbD 0 then .ok .cmdClear
  else .error .noCommand

/-- Decoding at either port. -/
def decode : Code → Except DecodeError Instr
  | .opw w => decodeOp w
  | .cmd8 b => decodeCmd b

/-- What the decoder reads from `nbits` bits `w`: 16 bits are an operation word, 8 bits a command
byte; there is no other length (R71, R78). -/
def decodeTableWord (nbits w : Nat) : Option Instr :=
  if nbits = 16 then (decodeOp (BitVec.ofNat 16 w)).toOption
  else if nbits = 8 then (decodeCmd (BitVec.ofNat 8 w)).toOption
  else none

/-- Joins the fields of an operation word (R71). -/
def opWord (op row : Nibble) (imm : Byte) : OpWord :=
  (op.setWidth 16 <<< 12) ||| (row.setWidth 16 <<< 8) ||| imm.setWidth 16

/-- The encoding of each instruction (R72, R79 to R84). -/
def encode : Instr → Code
  | .init mode => .opw (opWord 0x1 0 mode)
  | .wrch d => .opw (opWord 0x2 0 d)
  | .moveTo col row => .opw (opWord 0x3 row col)
  | .homeTop => .opw (opWord 0x4 0 0)
  | .homeBot => .opw (opWord 0x5 0 0)
  | .clearAll => .opw (opWord 0x6 0 0)
  | .clearRow row => .opw (opWord 0x7 row 0)
  | .togglePower => .opw (opWord 0x8 0 0)
  | .remain => .opw (opWord 0x9 0 0)
  | .xfer kind byte => .opw (opWord 0xA ((bit1 kind.level).setWidth 4) byte)
  | .cmdClear => .cmd8 0x01
  | .cmdHome ignored => .cmd8 (1#7 ++ bit1 ignored)
  | .cmdEntry inc shift => .cmd8 (1#6 ++ bit1 inc ++ bit1 shift)
  | .cmdDisplay on cursor blink => .cmd8 (1#5 ++ bit1 on ++ bit1 cursor ++ bit1 blink)
  | .cmdFunction bus8 two font11 ignored =>
    .cmd8 (1#3 ++ bit1 bus8 ++ bit1 two ++ bit1 font11 ++ ignored)
  | .cmdSetDdram addr => .cmd8 (1#1 ++ addr)

/-- One row of the match/mask tables of R72 and R78: `w` selects the row when
`w &&& mask = pattern`. Command bytes are rows over their eight bits. -/
structure TableRow (width : Nat) where
  mnemonic : String
  pattern : BitVec width
  mask : BitVec width
  deriving DecidableEq, Repr

/-- The row is selected by the word. -/
def TableRow.selects {width : Nat} (r : TableRow width) (w : BitVec width) : Bool :=
  w &&& r.mask == r.pattern

/-- The match/mask table of the operation words (R72). -/
def opwTable : List (TableRow 16) :=
  [⟨"INIT", 0x1000, 0xFF00⟩, ⟨"WRCH", 0x2000, 0xFF00⟩, ⟨"MOVE_TO", 0x3000, 0xF000⟩,
   ⟨"HOME_TOP", 0x4000, 0xFFFF⟩, ⟨"HOME_BOT", 0x5000, 0xFFFF⟩, ⟨"CLEAR_ALL", 0x6000, 0xFFFF⟩,
   ⟨"CLEAR_ROW", 0x7000, 0xF0FF⟩, ⟨"TOGGLE_POWER", 0x8000, 0xFFFF⟩, ⟨"REMAIN", 0x9000, 0xFFFF⟩,
   ⟨"XFER", 0xA000, 0xFE00⟩]

/-- The match/mask table of the command bytes (R78). -/
def cmd8Table : List (TableRow 8) :=
  [⟨"CMD_CLEAR", 0x01, 0xFF⟩, ⟨"CMD_HOME", 0x02, 0xFE⟩, ⟨"CMD_ENTRY", 0x04, 0xFC⟩,
   ⟨"CMD_DISPLAY", 0x08, 0xF8⟩, ⟨"CMD_FUNCTION", 0x20, 0xE0⟩, ⟨"CMD_SET_DDRAM", 0x80, 0x80⟩]

/-- The row's mnemonic in spec/opcode_table.json. -/
def Instr.mnemonic : Instr → String
  | .init _ => "INIT"
  | .wrch _ => "WRCH"
  | .moveTo _ _ => "MOVE_TO"
  | .homeTop => "HOME_TOP"
  | .homeBot => "HOME_BOT"
  | .clearAll => "CLEAR_ALL"
  | .clearRow _ => "CLEAR_ROW"
  | .togglePower => "TOGGLE_POWER"
  | .remain => "REMAIN"
  | .xfer _ _ => "XFER"
  | .cmdClear => "CMD_CLEAR"
  | .cmdHome _ => "CMD_HOME"
  | .cmdEntry _ _ => "CMD_ENTRY"
  | .cmdDisplay _ _ _ => "CMD_DISPLAY"
  | .cmdFunction _ _ _ _ => "CMD_FUNCTION"
  | .cmdSetDdram _ => "CMD_SET_DDRAM"

/-- The table rows a code is selected by, by name. -/
def Code.rows : Code → List String
  | .opw w => (opwTable.filter (·.selects w)).map (·.mnemonic)
  | .cmd8 b => (cmd8Table.filter (·.selects b)).map (·.mnemonic)

end Sys2Proof
end

