-- ==== Sys2Proof/Config.lean ====
section
/-! DEFINITION. What a build of the block fixes (00_scope.md R4 to R7) and the free values: opaque
constants without a body, of which no proof can know anything. -/

namespace Sys2Proof

/-- The direction in which the device steps its address counter (20_memory.md R56). -/
inductive Direction where
  | inc
  | dec
  deriving DecidableEq, Repr, Inhabited

namespace Config

/-- The number of visible rows (R4). -/
def rows : Nat := 2

/-- The number of columns of a row (R4). -/
def cols : Nat := 24

/-- The last column (R4). -/
def lastCol : Nat := cols - 1

/-- The number of visible cells (R4). -/
def capacity : Nat := rows * cols

/-- FREE VALUE. `POLL_LIMIT` is open, a natural number at least 1 (R7, D10): it is one more than
this. DESIGN CHOICE, safe (log 3). -/
opaque pollMore : Nat

/-- FREE VALUE. `T_PWR` in microseconds is open (R6, D11). DESIGN CHOICE, safe (log 3). -/
opaque tPwr : Nat

/-- FREE VALUE. The answer of the `n`-th busy read that no listed answer serves: any sequence is
possible (40_transport.md R107). DESIGN CHOICE, safe (log 8). -/
opaque busyAnswer : Nat → Bool

/-- `PWR_ON` at reset: the spec gives no value and forbids choosing zero (10_state.md R27).
DESIGN CHOICE, unsafe (log 1). -/
opaque resetPwrOn : Bool

/-- `CUR_COL` at reset, as `resetPwrOn`. DESIGN CHOICE, unsafe (log 1). -/
opaque resetCurCol : BitVec 5

/-- `CUR_ROW` at reset, as `resetPwrOn`. DESIGN CHOICE, unsafe (log 1). -/
opaque resetCurRow : BitVec 1

/-- `MODE` at reset, as `resetPwrOn`. DESIGN CHOICE, unsafe (log 1). -/
opaque resetMode : Byte

/-- FREE VALUE. An unspecified address counter of the device (20_memory.md R56, R58).
DESIGN CHOICE (log 2 at reset, log 14 after a command without meaning). -/
opaque freeAc : Nat → Address

/-- FREE VALUE. An unspecified direction of the device, as `freeAc`. DESIGN CHOICE (logs 2, 14). -/
opaque freeDir : Nat → Direction

/-- FREE VALUE. An unspecified `DISP_D`, as `freeAc`. DESIGN CHOICE (logs 2, 14). -/
opaque freeDispD : Nat → Bool

/-- FREE VALUE. An unspecified `DISP_C`, as `freeAc`. DESIGN CHOICE (logs 2, 14). -/
opaque freeDispC : Nat → Bool

/-- FREE VALUE. An unspecified `DISP_B`, as `freeAc`. DESIGN CHOICE (logs 2, 14). -/
opaque freeDispB : Nat → Bool

/-- FREE VALUE. The content of DDRAM cell `a` when the device's state is unspecified for the `n`-th
time (20_memory.md R56, R58). DESIGN CHOICE (logs 2, 14, 16). -/
opaque freeCell (n a : Nat) : Byte

/-- FREE VALUE. Whether the device takes a byte for which it did not report ready in time: the
timeout does not say so either way (40_transport.md R115; 60_exceptions.md R184, R190). DESIGN
CHOICE, safe (log 25). -/
opaque takesByte : Nat → Bool

end Config

/-- The parameters a model of the block takes (R5, R6, R7). They stand in the state because a step
has no other argument; no step writes them (log 3). -/
structure Params where
  /-- `ROW_BASE[0]` (R5). -/
  rowBase0 : Address
  /-- `ROW_BASE[1]` (R5). -/
  rowBase1 : Address
  /-- `POLL_LIMIT` (R7). -/
  pollLimit : Nat
  /-- `T_SHORT` in microseconds (R6). -/
  tShort : Nat
  /-- `T_LONG` in microseconds (R6). -/
  tLong : Nat
  /-- `T_PWR` in microseconds (R6). -/
  tPwr : Nat
  deriving DecidableEq, Repr

/-- The parameters of the spec's examples; the row bases are PRESUMED, unsafe (R5, D25, log 4), the
open parameters stay open (log 3). -/
def Config.params : Params :=
  { rowBase0 := 0x00, rowBase1 := 0x40, pollLimit := pollMore + 1,
    tShort := 43, tLong := 1500, tPwr := tPwr }

/-- `LINE_GAP = ROW_BASE[1] - ROW_BASE[0]` (R5). -/
def Params.lineGap (p : Params) : Int := (p.rowBase1.toNat : Int) - p.rowBase0.toNat

/-- The constraints on the parameters: both rows lie inside the 7-bit address space, row 1 "starts
at a fixed higher offset", `LINE_GAP != COLS` and the rows do not overlap (R5, 20_memory.md R41,
R44); `POLL_LIMIT` is at least 1 (R7). -/
abbrev Params.Legal (p : Params) : Prop :=
  p.rowBase0.toNat + Config.cols < p.rowBase1.toNat ∧
  p.rowBase1.toNat + Config.lastCol < 128 ∧ 1 ≤ p.pollLimit

end Sys2Proof
end

