-- ==== Sys2Proof/Machine/Memory.lean ====
section
/-! DEFINITION. DDRAM (20_memory.md R40, R56), a total map from the 7-bit addresses to bytes, as the
list of all its cells by rising address (log 16). -/

namespace Sys2Proof.Machine

/-- DDRAM: address and byte of every cell, addresses strictly rising. -/
abbrev Memory := List Host.Cell

/-- The number of DDRAM addresses (R40). -/
def ddramSize : Nat := 128

/-- What an address that is not listed reads as: a free byte of its own. A memory in canonical form
lists every address, so only an ill-formed one has such an address (log 16). -/
def Memory.unlisted (a : Address) : Byte := Config.freeCell 0 a.toNat

/-- `MemRead(a, 1)` (00_scope.md R8). -/
def Memory.read : Memory → Address → Byte
  | [], a => Memory.unlisted a
  | (b, v) :: rest, a => if a.toNat = b then v else Memory.read rest a

/-- `MemWrite(a, 1, v)` (00_scope.md R8). -/
def Memory.write : Memory → Address → Byte → Memory
  | [], a, v => [(a.toNat, v)]
  | (b, w) :: rest, a, v =>
    if a.toNat < b then (a.toNat, v) :: (b, w) :: rest
    else if a.toNat = b then (a.toNat, v) :: rest
    else (b, w) :: Memory.write rest a v

/-- The list holds exactly the addresses from `lo` to the last, rising. -/
def Memory.coversFrom : Nat → Memory → Bool
  | lo, [] => lo == ddramSize
  | lo, (a, _) :: rest => a == lo && Memory.coversFrom (lo + 1) rest

/-- The canonical form: exactly the addresses 0 to 127, rising. No entry can equal what an unlisted
address reads as, since none is unlisted, and equal maps are equal lists. -/
def Memory.wf (m : Memory) : Bool := Memory.coversFrom 0 m

/-- `n` cells from address `lo`, with the bytes of a function of the address. -/
def Memory.tabulate (f : Nat → Byte) : Nat → Nat → Memory
  | _, 0 => []
  | lo, n + 1 => (lo, f lo) :: Memory.tabulate f (lo + 1) n

/-- Every cell holds one byte (R59). -/
def Memory.filled (v : Byte) : Memory := Memory.tabulate (fun _ => v) 0 ddramSize

/-- Every cell holds a free value of its own (R56, R58). -/
def Memory.free (n : Nat) : Memory := Memory.tabulate (Config.freeCell n) 0 ddramSize

end Sys2Proof.Machine
end

