-- ==== Sys2Proof/Machine/State.lean ====
section
/-! DEFINITION. The state of the machine as plain data: the block's registers and pins
(10_state.md R12), the record and the inputs R25 names, and the device (20_memory.md R56). -/

namespace Sys2Proof.Machine

/-- The values of `STATUS` (60_exceptions.md R180); codes 5 to 7 are never written, so the type has
five values (93, U15; log 18). -/
inductive Status where
  | ok
  | hardwareTimeout
  | invalidPosition
  | precallSequenceViolation
  | illegalOperation
  deriving DecidableEq, Repr

/-- The three delay classes (00_scope.md R6). -/
inductive DelayClass where
  | short
  | long
  | pwr
  deriving DecidableEq, Repr

/-- The data pins: which of them the block drives (`DB_DRIVE`) and at what level (10_state.md R21).
A pin nobody drives has no level here (U23; log 17). -/
inductive DataPins where
  /-- `DB_DRIVE = none`. -/
  | released
  /-- `DB_DRIVE = upper4`: `DB[7:4]` is driven with the nibble. -/
  | upper4 (n : Nibble)
  /-- `DB_DRIVE = all8`: `DB[7:0]` is driven with the byte. -/
  | all8 (b : Byte)
  deriving DecidableEq, Repr

/-- The events of the pin trace (00_scope.md R9). -/
inductive Event where
  | rs (v : Bool)
  | rw (v : Bool)
  | e (v : Bool)
  | dbw8 (b : Byte)
  | dbw4 (n : Nibble)
  | dbz
  | bf (busy : Bool)
  | dly (c : DelayClass)
  deriving DecidableEq, Repr

/-- One byte strobed on the pins, on its way to the device (20_memory.md R57). -/
structure BusItem where
  kind : Kind
  byte : Byte
  /-- False when the busy poll after the byte timed out: whether the device takes it is open
  (40_transport.md R115; log 25). -/
  sure : Bool
  deriving DecidableEq, Repr

/-- What the host asks for: one operation word, or the pseudo-operation `WRITE_STRING` with the
characters still to be written (30_encoding.md R70, R89). -/
inductive Request where
  | word (w : OpWord)
  | string (chars : List Byte)
  deriving DecidableEq, Repr

/-- The reference device (20_memory.md R56). -/
structure Device where
  ddram : Memory
  /-- `AC`. -/
  ac : Address
  /-- `DIR`. -/
  dir : Direction
  /-- `DISP_D`. -/
  dispD : Bool
  /-- `DISP_C`. -/
  dispC : Bool
  /-- `DISP_B`. -/
  dispB : Bool
  /-- The model's own counter of the free values drawn at the device (logs 14, 25). -/
  draws : Nat
  deriving DecidableEq, Repr

/-- The whole machine. -/
structure State where
  /-- `INITED` (10_state.md R15). -/
  inited : Bool
  /-- `PWR_ON` (R16). -/
  pwrOn : Bool
  /-- `CUR_COL` (R17). -/
  curCol : BitVec 5
  /-- `CUR_ROW` (R17). -/
  curRow : BitVec 1
  /-- `MODE` (R18; 30_encoding.md R74). -/
  mode : Byte
  /-- `STATUS` (R19). -/
  status : Status
  /-- `RESULT` (R19). -/
  result : Byte
  /-- The pin `RS` (R20). -/
  pinRs : Bool
  /-- The pin `RW` (R20). -/
  pinRw : Bool
  /-- The pin `E` (R20). -/
  pinE : Bool
  /-- The pins `DB[7:0]` with `DB_DRIVE` (R21). -/
  pinDb : DataPins
  /-- The pin trace, oldest event first; the block never reads it (R25). -/
  trace : List Event
  /-- The requests the host will still present, next first (30_encoding.md R70; log 10). -/
  host : List Request
  /-- The device's answers to the next busy reads, true for busy (40_transport.md R107; log 8). -/
  answers : List Bool
  /-- The bytes strobed on the pins that the device has not acted on yet, oldest first (log 12). -/
  bus : List BusItem
  /-- The reference device. -/
  device : Device
  /-- The parameters; no step writes them (log 3). -/
  params : Params
  /-- The model's own counter of free busy answers drawn (log 8). -/
  draws : Nat
  deriving DecidableEq, Repr

/-- Why a step could stop with a fault. There is no constructor: the block has no traps and every
operation ends with a status, which is a next state (60_exceptions.md R180, R188; 42_display_ops.md
R162), and no step of the model reads a pin that holds no level. -/
inductive Fault where
  deriving DecidableEq, Repr

/-- Why an instruction could have no meaning. -/
inductive Refusal where
  /-- Raised by an arm of `exec` whose instruction has no meaning yet; safe. No arm raises it now. -/
  | notModelled (mnemonic : String)
  deriving DecidableEq, Repr

/-- An outcome of a step of this machine. -/
abbrev Result := Host.Outcome State Fault Refusal

/-- A device whose state is unspecified (20_memory.md R56, R58): every cell and every register holds
a free value, fresh ones for each `n`. -/
def Device.unspecified (n : Nat) : Device :=
  { ddram := Memory.free n, ac := Config.freeAc n, dir := Config.freeDir n,
    dispD := Config.freeDispD n, dispC := Config.freeDispC n, dispB := Config.freeDispB n,
    draws := n }

/-- The machine after reset (10_state.md R27; 70_reset_and_hazards.md R200, R201; 20_memory.md R56).
Registers without a value in the spec hold an opaque constant (logs 1, 2). -/
def State.reset : State :=
  { inited := false
    pwrOn := Config.resetPwrOn
    curCol := Config.resetCurCol
    curRow := Config.resetCurRow
    mode := Config.resetMode
    status := .ok
    result := 0
    pinRs := false
    pinRw := false
    pinE := false
    pinDb := .released
    trace := []
    host := []
    answers := []
    bus := []
    device := Device.unspecified 0
    params := Config.params
    draws := 0 }

end Sys2Proof.Machine
end

