-- ==== Sys2Proof/Machine/Flags.lean ====
section
/-! DEFINITION. The fields of the registers: the bits of `MODE` (30_encoding.md R74), the code of
`STATUS` (60_exceptions.md R180), the response (30_encoding.md R70) and the drive of the data pins
(10_state.md R21). -/

namespace Sys2Proof.Machine

/-- `MODE.BUS8`, bit 0. -/
def State.modeBus8 (s : State) : Bool := s.mode.getLsbD 0

/-- `MODE.TWO_LINE`, bit 1. -/
def State.modeTwoLine (s : State) : Bool := s.mode.getLsbD 1

/-- `MODE.FONT11`, bit 2. -/
def State.modeFont11 (s : State) : Bool := s.mode.getLsbD 2

/-- `MODE.CURSOR`, bit 3. -/
def State.modeCursor (s : State) : Bool := s.mode.getLsbD 3

/-- `MODE.BLINK`, bit 4. -/
def State.modeBlink (s : State) : Bool := s.mode.getLsbD 4

/-- `MODE.INC`, bit 5. -/
def State.modeInc (s : State) : Bool := s.mode.getLsbD 5

/-- `MODE.WRAP`, bit 6. -/
def State.modeWrap (s : State) : Bool := s.mode.getLsbD 6

/-- `MODE.POLL`, bit 7. -/
def State.modePoll (s : State) : Bool := s.mode.getLsbD 7

/-- The code of a status (R180). -/
def Status.code : Status → BitVec 3
  | .ok => 0
  | .hardwareTimeout => 1
  | .invalidPosition => 2
  | .precallSequenceViolation => 3
  | .illegalOperation => 4

/-- The response `resp`: bits 10:8 are `STATUS`, bits 7:0 are `RESULT` (R70). -/
def State.resp (s : State) : BitVec 11 := s.status.code ++ s.result

/-- The values of `DB_DRIVE` (10_state.md R21). -/
inductive Drive where
  | none
  | upper4
  | all8
  deriving DecidableEq, Repr

/-- `DB_DRIVE` (10_state.md R21). -/
def State.dbDrive (s : State) : Drive :=
  match s.pinDb with
  | .released => .none
  | .upper4 _ => .upper4
  | .all8 _ => .all8

/-- The level of the data pin `DB[i]`, where the block drives it (10_state.md R21, R23). -/
def State.dbLevel (s : State) (i : Nat) : Option Bool :=
  match s.pinDb with
  | .released => Option.none
  | .upper4 n => if 4 ≤ i ∧ i < 8 then some (n.getLsbD (i - 4)) else Option.none
  | .all8 b => if i < 8 then some (b.getLsbD i) else Option.none

end Sys2Proof.Machine
end

