-- ==== Sys2Proof/Machine/Operands.lean ====
section
/-! DEFINITION. Operands: the row clamp and the address translator (41_addressing_cursor.md R130,
R131), the wait class (40_transport.md R103), the command bytes the block builds (30_encoding.md R79
to R84; values PRESUMED, unsafe, log 5) and the delay floors (00_scope.md R6). -/

namespace Sys2Proof.Machine

/-- A row operand outside 0 and 1 acts as row 0 (R131). -/
def clampRow (row : Nibble) : BitVec 1 := if row = 1 then 1 else 0

/-- `ROW_BASE[row]` (00_scope.md R5). -/
def rowBase (p : Params) (row : BitVec 1) : Address := if row = 0 then p.rowBase0 else p.rowBase1

/-- Logical position to DDRAM address (R130). -/
def resolve (p : Params) (col : Byte) (row : Nibble) : Address :=
  rowBase p (clampRow row) + col.setWidth 7

/-- A cursor column as an operand. -/
def colOperand (col : BitVec 5) : Byte := col.setWidth 8

/-- A cursor row as an operand. -/
def rowOperand (row : BitVec 1) : Nibble := row.setWidth 4

/-- The address of the tracked cursor. -/
def State.cursorAddress (s : State) : Address :=
  resolve s.params (colOperand s.curCol) (rowOperand s.curRow)

/-- `CMD_CLEAR` (R79). -/
def cmdClearByte : Byte := 0x01

/-- `CMD_HOME` (R80); no operation of the block builds it. -/
def cmdHomeByte : Byte := 0x02

/-- `CMD_ENTRY(inc)` (R81). -/
def cmdEntryByte (inc : Bool) : Byte := 0x04 ||| ((bit1 inc).setWidth 8 <<< 1)

/-- `CMD_DISPLAY(on, cursor, blink)` (R82). -/
def cmdDisplayByte (on cursor blink : Bool) : Byte :=
  0x08 ||| ((bit1 on).setWidth 8 <<< 2) ||| ((bit1 cursor).setWidth 8 <<< 1) |||
    (bit1 blink).setWidth 8

/-- `CMD_FUNCTION(bus8, two, font11)` (R83). -/
def cmdFunctionByte (bus8 two font11 : Bool) : Byte :=
  0x20 ||| ((bit1 bus8).setWidth 8 <<< 4) ||| ((bit1 two).setWidth 8 <<< 3) |||
    ((bit1 font11).setWidth 8 <<< 2)

/-- `CMD_SET_DDRAM(a)` (R84). -/
def cmdSetDdramByte (a : Address) : Byte := 0x80 ||| a.setWidth 8

/-- The code of a blank (42_display_ops.md R158; PRESUMED, unsafe, log 5). -/
def space : Byte := 0x20

/-- The wait class of a transfer (40_transport.md R103). -/
def classOf (kind : Kind) (byte : Byte) : DelayClass :=
  match kind with
  | .command => if byte = 0x01 ∨ byte = 0x02 ∨ byte = 0x03 then .long else .short
  | .data => .short

/-- The floor of a delay class in microseconds (00_scope.md R6). -/
def delayFloor (p : Params) : DelayClass → Nat
  | .short => p.tShort
  | .long => p.tLong
  | .pwr => p.tPwr

end Sys2Proof.Machine
end

