-- ==== Sys2Proof/Machine/Ops.lean ====
section
/-! DEFINITION. The named operations of the block: driving the pins (10_state.md R20, R21), one
transfer with its handshake (40_transport.md R100 to R108), ending an operation (60_exceptions.md
R181, R188, R189), and moving the cursor (41_addressing_cursor.md R132, R136). -/

namespace Sys2Proof.Machine

/-! ## Pins -/

/-- Appends an event to the trace (00_scope.md R9). -/
def State.emit (s : State) (ev : Event) : State := { s with trace := s.trace ++ [ev] }

/-- `RS <- v` (R20). -/
def State.driveRs (s : State) (v : Bool) : State := { s with pinRs := v }.emit (.rs v)

/-- `RW <- v` (R20). -/
def State.driveRw (s : State) (v : Bool) : State := { s with pinRw := v }.emit (.rw v)

/-- `E <- v` (R20). -/
def State.driveE (s : State) (v : Bool) : State := { s with pinE := v }.emit (.e v)

/-- `DB[7:0] <- b` (R21). -/
def State.driveDb8 (s : State) (b : Byte) : State := { s with pinDb := .all8 b }.emit (.dbw8 b)

/-- `DB[7:4] <- n` (R21). -/
def State.driveDb4 (s : State) (n : Nibble) : State := { s with pinDb := .upper4 n }.emit (.dbw4 n)

/-- `release DB` (R21). -/
def State.releaseDb (s : State) : State := { s with pinDb := .released }.emit .dbz

/-- `Delay(class)`: the event only; the platform lets at least the floor pass (R108, log 19). -/
def State.delay (s : State) (c : DelayClass) : State := s.emit (.dly c)

/-- `sample DB7`: the device's next listed answer, or a free value when none is listed (R106, R107;
DESIGN CHOICE, safe, log 8). -/
def State.sampleDb7 (s : State) : Bool × State :=
  match s.answers with
  | busy :: rest => (busy, { s with answers := rest }.emit (.bf busy))
  | [] => (Config.busyAnswer s.draws,
      { s with draws := s.draws + 1 }.emit (.bf (Config.busyAnswer s.draws)))

/-! ## One transfer -/

/-- `Put8` (R101). -/
def State.put8 (s : State) (b : Byte) : State := ((s.driveE true).driveDb8 b).driveE false

/-- `Put4` (R102). -/
def State.put4 (s : State) (n : Nibble) : State := ((s.driveE true).driveDb4 n).driveE false

/-- `byte[7:4]` (20_memory.md R43). -/
def highNibble (b : Byte) : Nibble := b.extractLsb' 4 4

/-- `byte[3:0]` (20_memory.md R43). -/
def lowNibble (b : Byte) : Nibble := b.extractLsb' 0 4

/-- The byte on the pins, whole or high nibble first (R100). -/
def State.putByte (s : State) (b : Byte) : State :=
  if s.modeBus8 then s.put8 b else (s.put4 (highNibble b)).put4 (lowNibble b)

/-- `Transfer` up to its handshake (R100). -/
def State.strobe (s : State) (kind : Kind) (byte : Byte) : State :=
  ((s.driveRw false).driveRs kind.level).putByte byte

/-- How a transfer ends (R100). -/
inductive TransferEnd where
  | ok
  | timeout
  deriving DecidableEq, Repr

/-- The second, empty pulse of a busy read on the 4-bit bus (R106). -/
def State.lowNibblePulse (s : State) : State :=
  if s.modeBus8 then s else (s.driveE true).driveE false

/-- `BusyRead` (R106): the answer, true for busy, and the state after it. -/
def State.busyRead (s : State) : Bool × State :=
  let r := ((((s.releaseDb).driveRs false).driveRw true).driveE true).sampleDb7
  (r.1, ((r.2.driveE false).lowNibblePulse).driveRw false)

/-- `Poll` with at most `n` reads left (R105). -/
def poll : Nat → State → TransferEnd × State
  | 0, s => (.timeout, s)
  | n + 1, s => if s.busyRead.1 then poll n s.busyRead.2 else (.ok, s.busyRead.2)

/-- `Handshake` (R104). -/
def handshake (c : DelayClass) (fixed : Bool) (s : State) : TransferEnd × State :=
  if fixed || !s.modePoll then (.ok, s.delay c) else poll s.params.pollLimit s

/-- The strobed byte is on its way to the device (R110, 20_memory.md R57; log 12); after a timeout
the device may or may not have taken it (R115; log 25). -/
def State.toBus (s : State) (kind : Kind) (byte : Byte) (sure : Bool) : State :=
  { s with bus := s.bus ++ [⟨kind, byte, sure⟩] }

/-- `Transfer` (R100). -/
def transfer (kind : Kind) (byte : Byte) (fixed : Bool) (s : State) : TransferEnd × State :=
  let r := handshake (classOf kind byte) fixed (s.strobe kind byte)
  (r.1, r.2.toBus kind byte (r.1 == .ok))

/-! ## Ending an operation -/

/-- Where an operation's pseudocode stands: going on, or ended by an error. -/
inductive Flow where
  | on (s : State)
  | raised (err : Status) (s : State)
  deriving DecidableEq, Repr

/-- The next part of the pseudocode, unless an error has ended the operation. -/
def Flow.andThen (f : Flow) (k : State → Flow) : Flow :=
  match f with
  | .on s => k s
  | .raised err s => .raised err s

/-- `complete(v)` (R189). -/
def complete (v : Byte) (s : State) : State := { s with status := .ok, result := v }

/-- `raise <Error>` (R188). -/
def raise (err : Status) (s : State) : State := { s with status := err, result := 0 }

/-- The end of an operation whose last line is `complete(0)`. -/
def Flow.finish : Flow → State
  | .on s => complete 0 s
  | .raised err s => raise err s

/-- The gate at the head of every operation but `INIT` (R183). -/
def requireReady (s : State) : Flow :=
  if s.inited then .on s else .raised .precallSequenceViolation s

/-- `try Transfer(kind, byte)` (R181). -/
def tryTransfer (kind : Kind) (byte : Byte) (s : State) : Flow :=
  match (transfer kind byte false s).1 with
  | .ok => .on (transfer kind byte false s).2
  | .timeout => .raised .hardwareTimeout (transfer kind byte false s).2

/-! ## The cursor -/

/-- `CUR <- (col, row)` (10_state.md R17). -/
def State.setCursor (s : State) (col : BitVec 5) (row : BitVec 1) : State :=
  { s with curCol := col, curRow := row }

/-- `move_to(col, row)` (41_addressing_cursor.md R132). -/
def moveTo (col : Byte) (row : Nibble) (s : State) : Flow :=
  if Config.cols ≤ col.toNat then .raised .invalidPosition s
  else
    tryTransfer .command
      (cmdSetDdramByte (resolve s.params col (rowOperand (clampRow row))))
      (s.setCursor (col.setWidth 5) (clampRow row))

/-- `LAST_COL` as an operand. -/
def lastColOperand : Byte := 23

/-- `advance_after_write()` (41_addressing_cursor.md R136): step, wrap to row 1, or saturate. -/
def advanceAfterWrite (s : State) : Flow :=
  if s.curCol.toNat < Config.lastCol then .on (s.setCursor (s.curCol + 1) s.curRow)
  else if s.modeWrap && s.curRow == 0 then moveTo 0 1 s
  else moveTo lastColOperand (rowOperand s.curRow) s

/-- `n` spaces, each followed by `advance_after_write()` (42_display_ops.md R158). -/
def writeSpaces : Nat → State → Flow
  | 0, s => .on s
  | n + 1, s => ((tryTransfer .data space s).andThen advanceAfterWrite).andThen (writeSpaces n)

/-- The new value of the count that `REMAIN` returns (41_addressing_cursor.md R139). -/
def remainingCapacity (s : State) : Byte :=
  if s.curRow = 0 then BitVec.ofNat 8 Config.capacity - colOperand s.curCol
  else BitVec.ofNat 8 Config.cols - colOperand s.curCol

end Sys2Proof.Machine
end

