-- ==== Sys2Proof/Machine/Cursor.lean ====
section
/-! DEFINITION. Addressing and cursor operations: MOVE_TO, HOME_TOP, HOME_BOT, REMAIN
(41_addressing_cursor.md R133 to R135, R139). -/

namespace Sys2Proof.Machine

/-- MOVE_TO (R133). -/
def execMoveTo (col : Byte) (row : Nibble) (s : State) : Result :=
  .next (((requireReady s).andThen (moveTo col row)).finish)

/-- HOME_TOP (R134). -/
def execHomeTop (s : State) : Result :=
  .next (((requireReady s).andThen (moveTo 0 0)).finish)

/-- HOME_BOT (R135). -/
def execHomeBot (s : State) : Result :=
  .next (((requireReady s).andThen (moveTo 0 1)).finish)

/-- REMAIN (R139): the one operation that returns a count. -/
def execRemain (s : State) : Result :=
  match requireReady s with
  | .on t => .next (complete (remainingCapacity t) t)
  | .raised err t => .next (raise err t)

end Sys2Proof.Machine
end

