-- ==== Sys2Proof/Machine/Device.lean ====
section
/-! DEFINITION. The reference device (20_memory.md R55 to R62; PRESUMED, unsafe, log 13): what it
does with a command byte and with a data byte, and the meanings of the six command bytes. -/

namespace Sys2Proof.Machine

/-- Clear (R59). -/
def Device.clear (d : Device) : Device :=
  { d with ddram := Memory.filled 0x20, ac := 0, dir := .inc }

/-- Return-home (R59). -/
def Device.home (d : Device) : Device := { d with ac := 0 }

/-- Entry-mode-set: the direction; the display shift has no meaning here (R60; DEDUCED, unsafe,
log 15). -/
def Device.entryMode (d : Device) (inc : Bool) : Device :=
  { d with dir := if inc then .inc else .dec }

/-- Display-control (R60). -/
def Device.displayControl (d : Device) (on cursor blink : Bool) : Device :=
  { d with dispD := on, dispC := cursor, dispB := blink }

/-- Function-set: no change to the reference state (R60). -/
def Device.functionSet (d : Device) : Device := d

/-- Set-DDRAM-address (R61). -/
def Device.setAddress (d : Device) (a : Address) : Device := { d with ac := a }

/-- The address counter after one data byte, modulo 128 (R61). -/
def Device.stepAc (d : Device) : Device :=
  { d with ac := match d.dir with
      | .inc => d.ac + 1
      | .dec => d.ac - 1 }

/-- A data byte: stored at the address counter, which then steps (R61, R52). -/
def Device.storeData (d : Device) (v : Byte) : Device :=
  { d with ddram := d.ddram.write d.ac v }.stepAc

/-- The machine with another device state. -/
def State.setDevice (s : State) (d : Device) : State := { s with device := d }

/-- A command byte the reference device gives no meaning: its whole state is unspecified afterwards
(R58, U22; DESIGN CHOICE, log 14). -/
def State.deviceUnspecified (s : State) : State :=
  s.setDevice (Device.unspecified (s.device.draws + 1))

/-- One more free value drawn at the device (log 25). -/
def State.deviceDraw (s : State) : State :=
  s.setDevice { s.device with draws := s.device.draws + 1 }

/-- Whether the device takes a byte that it did not report ready for in time: a free value
(40_transport.md R115; 60_exceptions.md R184; DESIGN CHOICE, safe, log 25). -/
def Device.takesDoubtful (d : Device) : Bool := Config.takesByte d.draws

/-- A data byte reaches the device (R61). -/
def acceptData (d : Byte) (s : State) : State := s.setDevice (s.device.storeData d)

/-- CMD_CLEAR. -/
def execCmdClear (s : State) : Result := .next (s.setDevice s.device.clear)

/-- CMD_HOME; bit 0 is ignored by the device (30_encoding.md R78). -/
def execCmdHome (_ignored : Bool) (s : State) : Result := .next (s.setDevice s.device.home)

/-- CMD_ENTRY. -/
def execCmdEntry (inc _shift : Bool) (s : State) : Result :=
  .next (s.setDevice (s.device.entryMode inc))

/-- CMD_DISPLAY. -/
def execCmdDisplay (on cursor blink : Bool) (s : State) : Result :=
  .next (s.setDevice (s.device.displayControl on cursor blink))

/-- CMD_FUNCTION. -/
def execCmdFunction (_bus8 _two _font11 : Bool) (_ignored : BitVec 2) (s : State) : Result :=
  .next (s.setDevice s.device.functionSet)

/-- CMD_SET_DDRAM. -/
def execCmdSetDdram (addr : Address) (s : State) : Result :=
  .next (s.setDevice (s.device.setAddress addr))

/-- The cell of a visible position, `cell(row, col)` (R62). -/
def State.cell (s : State) (row : BitVec 1) (col : Nat) : Byte :=
  s.device.ddram.read (rowBase s.params row + BitVec.ofNat 7 col)

/-- `row(row)`, the bytes of the 24 cells of a row from the left (R62). -/
def State.row (s : State) (row : BitVec 1) : List Byte :=
  (List.range Config.cols).map (s.cell row)

end Sys2Proof.Machine
end

