-- ==== Sys2Proof/Machine/Display.lean ====
section
/-! DEFINITION. Display operations: INIT, WRCH, CLEAR_ALL, CLEAR_ROW, TOGGLE_POWER and the host's
WRITE_STRING (42_display_ops.md R150 to R160). -/

namespace Sys2Proof.Machine

/-- A transfer of `INIT`: always a fixed delay, so it cannot time out (R150, R151). -/
def initTransfer (byte : Byte) (s : State) : State := (transfer .command byte true s).2

/-- The power-on sequence of `INIT`, read with the mode already loaded (R150). -/
def initSequence (s : State) : State :=
  let s1 := s.delay .pwr
  let s2 := initTransfer (cmdFunctionByte s1.modeBus8 s1.modeTwoLine s1.modeFont11) s1
  let s3 := initTransfer (cmdDisplayByte true s2.modeCursor s2.modeBlink) s2
  let s4 := initTransfer cmdClearByte s3
  initTransfer (cmdEntryByte s4.modeInc) s4

/-- INIT (R150); allowed in both states of the block (D14). -/
def execInit (mode : Byte) (s : State) : Result :=
  .next (complete 0
    { (initSequence { s with mode := mode }).setCursor 0 0 with pwrOn := true, inited := true })

/-- WRCH (R153). -/
def execWrch (d : Byte) (s : State) : Result :=
  .next ((((requireReady s).andThen (tryTransfer .data d)).andThen advanceAfterWrite).finish)

/-- CLEAR_ALL (R157). -/
def execClearAll (s : State) : Result :=
  .next ((((requireReady s).andThen (tryTransfer .command cmdClearByte)).andThen
    (fun t => .on (t.setCursor 0 0))).finish)

/-- CLEAR_ROW (R158). -/
def execClearRow (row : Nibble) (s : State) : Result :=
  let r := rowOperand (clampRow row)
  .next (((((requireReady s).andThen (moveTo 0 r)).andThen (writeSpaces Config.cols)).andThen
    (moveTo 0 r)).finish)

/-- The flag is flipped before the command is sent (R160). -/
def togglePower (s : State) : Flow :=
  let t := { s with pwrOn := !s.pwrOn }
  tryTransfer .command (cmdDisplayByte t.pwrOn t.modeCursor t.modeBlink) t

/-- TOGGLE_POWER (R160). -/
def execTogglePower (s : State) : Result :=
  .next (((requireReady s).andThen togglePower).finish)

/-- WRITE_STRING (R155): a WRCH for each character in order, stopping after the first whose status
is not 0. -/
def writeString : List Byte → State → Result
  | [], s => .next s
  | c :: cs, s =>
    match execWrch c s with
    | .next t => if t.status = .ok then writeString cs t else .next t
    | .fault r => .fault r
    | .refused r => .refused r

end Sys2Proof.Machine
end

