-- ==== Sys2Proof/Machine/Transport.lean ====
section
/-! DEFINITION. The raw transfer XFER (40_transport.md R113, R114). -/

namespace Sys2Proof.Machine

/-- XFER: one raw byte; no belief about the device is updated. -/
def execXfer (kind : Kind) (byte : Byte) (s : State) : Result :=
  .next (((requireReady s).andThen (tryTransfer kind byte)).finish)

end Sys2Proof.Machine
end

