-- ==== Sys2Proof/Machine/Dispatch.lean ====
section
/-! DEFINITION. One arm per instruction, in the table's order. -/

namespace Sys2Proof.Machine

/-- The meaning of an instruction. -/
def exec (i : Instr) (s : State) : Host.Outcome State Fault Refusal :=
  match i with
  | .init mode => Sys2Proof.Machine.execInit mode s
  | .wrch d => Sys2Proof.Machine.execWrch d s
  | .moveTo col row => Sys2Proof.Machine.execMoveTo col row s
  | .homeTop => Sys2Proof.Machine.execHomeTop s
  | .homeBot => Sys2Proof.Machine.execHomeBot s
  | .clearAll => Sys2Proof.Machine.execClearAll s
  | .clearRow row => Sys2Proof.Machine.execClearRow row s
  | .togglePower => Sys2Proof.Machine.execTogglePower s
  | .remain => Sys2Proof.Machine.execRemain s
  | .xfer kind byte => Sys2Proof.Machine.execXfer kind byte s
  | .cmdClear => Sys2Proof.Machine.execCmdClear s
  | .cmdHome ignored => Sys2Proof.Machine.execCmdHome ignored s
  | .cmdEntry inc shift => Sys2Proof.Machine.execCmdEntry inc shift s
  | .cmdDisplay on cursor blink => Sys2Proof.Machine.execCmdDisplay on cursor blink s
  | .cmdFunction bus8 two font11 ignored => Sys2Proof.Machine.execCmdFunction bus8 two font11 ignored s
  | .cmdSetDdram addr => Sys2Proof.Machine.execCmdSetDdram addr s

end Sys2Proof.Machine
end

