-- ==== Sys2Proof/Machine/Fetch.lean ====
section
/-! DEFINITION. Who moves next and with what: the device while a transfer waits for it, else the
host's next request, else nobody (10_state.md R10, R11; 20_memory.md R57; logs 10, 12). -/

namespace Sys2Proof.Machine

/-- What the next step is about; the state has the fetched thing taken out. -/
inductive Fetched where
  /-- Nothing: the block waits for an operation word (70_reset_and_hazards.md R200). -/
  | idle
  /-- An instruction: an operation word of the host or a command byte at the device. -/
  | instr (i : Instr) (s : State)
  /-- The `WRCH` of the next character of a string the host writes (42_display_ops.md R155). -/
  | char (i : Instr) (s : State)
  /-- A string without characters left: no operation at all (30_encoding.md R89). -/
  | stringDone (s : State)
  /-- A reserved operation word (30_encoding.md R76). -/
  | reserved (s : State)
  /-- A data byte at the device (20_memory.md R61). -/
  | data (d : Byte) (s : State)
  /-- A command byte without meaning at the device (20_memory.md R58). -/
  | unknownCommand (s : State)
  /-- A byte whose poll timed out and which the device did not take (40_transport.md R115). -/
  | lost (s : State)
  deriving DecidableEq, Repr

/-- The host's next request (30_encoding.md R70, R89). -/
def fetchHost (s : State) : Fetched :=
  match s.host with
  | [] => .idle
  | .word w :: rest =>
    match decode (.opw w) with
    | .ok i => .instr i { s with host := rest }
    | .error _ => .reserved { s with host := rest }
  | .string [] :: rest => .stringDone { s with host := rest }
  | .string (c :: cs) :: rest => .char (.wrch c) { s with host := .string cs :: rest }

/-- A byte the device takes (20_memory.md R57, R58, R61). -/
def fetchTaken (x : BusItem) (s : State) : Fetched :=
  match x.kind with
  | .data => .data x.byte s
  | .command =>
    match decode (.cmd8 x.byte) with
    | .ok i => .instr i s
    | .error _ => .unknownCommand s

/-- A byte that reaches the device: taken, unless its poll timed out and the free value says that it
is lost (40_transport.md R115; log 25). -/
def fetchDevice (x : BusItem) (s : State) : Fetched :=
  if x.sure then fetchTaken x s
  else if s.device.takesDoubtful then fetchTaken x s.deviceDraw
  else .lost s.deviceDraw

/-- The next thing that happens. -/
def fetch (s : State) : Fetched :=
  match s.bus with
  | x :: rest => fetchDevice x { s with bus := rest }
  | [] => fetchHost s

/-- The end of one character of a string: the rest of the string is dropped unless the status is 0
(42_display_ops.md R155). -/
def settleString (s : State) : State :=
  if s.status = .ok then s else { s with host := s.host.tail }

/-- A change to the next state of an outcome. -/
def mapNext (f : State → State) : Result → Result
  | .next s => .next (f s)
  | .fault r => .fault r
  | .refused r => .refused r

/-- An operation word placed as the next thing that happens: the device has nothing left to take,
and the host presents the word first. -/
def State.presentWord (s : State) (w : OpWord) : State :=
  { s with bus := [], host := .word w :: s.host }

/-- A command byte placed as the next thing that happens: it is the first the device takes. -/
def State.presentCommand (s : State) (b : Byte) : State :=
  { s with bus := ⟨.command, b, true⟩ :: s.bus }

end Sys2Proof.Machine
end

