-- ==== Sys2Proof/Machine/Step.lean ====
section
/-! DEFINITION. One step of the machine: the device takes one byte, or the block runs one operation
of the host to completion, or the block waits. -/

namespace Sys2Proof.Machine

/-- One step (10_state.md R11; 20_memory.md R48; 60_exceptions.md R185; 70_reset_and_hazards.md
R200). -/
def step (s : State) : Host.Outcome State Fault Refusal :=
  match fetch s with
  | .idle => .next s
  | .instr i t => exec i t
  | .char i t => mapNext settleString (exec i t)
  | .stringDone t => .next t
  | .reserved t => .next (raise .illegalOperation t)
  | .data d t => .next (acceptData d t)
  | .unknownCommand t => .next t.deviceUnspecified
  | .lost t => .next t

/-- The state with an instruction of `nbits` bits `w` placed where `step` fetches next: 16 bits are
an operation word at the port, 8 bits a command byte at the device (log 10). -/
def State.withFetchWord (s : State) (nbits w : Nat) : State :=
  if nbits = 16 then s.presentWord (BitVec.ofNat 16 w)
  else if nbits = 8 then s.presentCommand (BitVec.ofNat 8 w)
  else s

end Sys2Proof.Machine
end

