-- ==== Sys2Proof/Machine/Trace.lean ====
section
/-! DEFINITION. The two views of what the block did: the transfer trace as a projection of the pin
trace (40_transport.md R112), the pin events a transfer is made of (R101, R102, R106), and the least
blocking time (70_reset_and_hazards.md R224, R225). -/

namespace Sys2Proof.Machine

/-- The items of the transfer trace (00_scope.md R9): `C(b)` and `D(b)`, `w(class)`, `p(k)`,
`p(k)!`. -/
inductive Item where
  | xfer (kind : Kind) (byte : Byte)
  | wait (c : DelayClass)
  | polled (reads : Nat)
  | polledOut (reads : Nat)
  deriving DecidableEq, Repr

/-- One recognised group of pin events: a byte, a delay, or one busy read with its answer. -/
inductive Group where
  | xfer (kind : Kind) (byte : Byte)
  | wait (c : DelayClass)
  | read (busy : Bool)
  deriving DecidableEq, Repr

/-- The groups of a pin trace, left to right (R112 a to c and the groups of R106); none when some
event belongs to no group. -/
def groups : List Event → Option (List Group)
  | [] => some []
  | .dly c :: rest => (groups rest).map (.wait c :: ·)
  | .rw false :: .rs k :: .e true :: .dbw8 b :: .e false :: rest =>
    (groups rest).map (.xfer (Kind.ofLevel k) b :: ·)
  | .rw false :: .rs k :: .e true :: .dbw4 h :: .e false :: .e true :: .dbw4 l :: .e false :: rest =>
    (groups rest).map (.xfer (Kind.ofLevel k) (h ++ l) :: ·)
  | .dbz :: .rs false :: .rw true :: .e true :: .bf b :: .e false :: .rw false :: rest =>
    (groups rest).map (.read b :: ·)
  | .dbz :: .rs false :: .rw true :: .e true :: .bf b :: .e false :: .e true :: .e false ::
      .rw false :: rest =>
    (groups rest).map (.read b :: ·)
  | _ => none
termination_by structural evs => evs

/-- The items of a list of groups when `n` busy answers stand directly before it: a maximal run of
busy reads is `p(j)` when its last answer is ready and `p(j)!` when every answer is busy (R112 d).
A run in which a read follows the ready one is no run of the block. -/
def itemsAfter : Nat → List Group → Option (List Item)
  | 0, [] => some []
  | n + 1, [] => some [.polledOut (n + 1)]
  | n, .read true :: rest => itemsAfter (n + 1) rest
  | n, .read false :: rest =>
    match rest with
    | .read _ :: _ => none
    | _ => (itemsAfter 0 rest).map (.polled (n + 1) :: ·)
  | 0, .xfer k b :: rest => (itemsAfter 0 rest).map (.xfer k b :: ·)
  | n + 1, .xfer k b :: rest => (itemsAfter 0 rest).map ([.polledOut (n + 1), .xfer k b] ++ ·)
  | 0, .wait c :: rest => (itemsAfter 0 rest).map (.wait c :: ·)
  | n + 1, .wait c :: rest => (itemsAfter 0 rest).map ([.polledOut (n + 1), .wait c] ++ ·)

/-- The transfer trace of a pin trace (R112). -/
def transferTrace (evs : List Event) : Option (List Item) := (groups evs).bind (itemsAfter 0)

/-- The bytes of a transfer trace on their way to the device (20_memory.md R57): a byte followed by
`p(k)!` is not sure to be taken (R115). -/
def busItems : List Item → List BusItem
  | [] => []
  | .xfer k b :: .polledOut _ :: rest => ⟨k, b, false⟩ :: busItems rest
  | .xfer k b :: rest => ⟨k, b, true⟩ :: busItems rest
  | .wait _ :: rest => busItems rest
  | .polled _ :: rest => busItems rest
  | .polledOut _ :: rest => busItems rest

/-- The pin events of one byte written, up to its handshake (R100 to R102). -/
def writeEvents (bus8 : Bool) (kind : Kind) (b : Byte) : List Event :=
  [.rw false, .rs kind.level] ++
    if bus8 then [.e true, .dbw8 b, .e false]
    else [.e true, .dbw4 (highNibble b), .e false, .e true, .dbw4 (lowNibble b), .e false]

/-- The pin events of one busy read answered `busy` (R106). -/
def readEvents (bus8 busy : Bool) : List Event :=
  [.dbz, .rs false, .rw true, .e true, .bf busy, .e false] ++
    (if bus8 then [] else [.e true, .e false]) ++ [.rw false]

/-- The pin events of busy reads answered in turn. -/
def pollEvents (bus8 : Bool) (answers : List Bool) : List Event :=
  answers.flatMap (readEvents bus8)

/-- The data pins after one byte written (10_state.md R21, R22). -/
def pinsAfterWrite (bus8 : Bool) (b : Byte) : DataPins :=
  if bus8 then .all8 b else .upper4 (lowNibble b)

/-- The least time of a stretch of the trace in microseconds: the sum of the floors of its delays
(70_reset_and_hazards.md R224, R225). -/
def leastTime (p : Params) : List Event → Nat
  | [] => 0
  | .dly c :: rest => delayFloor p c + leastTime p rest
  | .rs _ :: rest | .rw _ :: rest | .e _ :: rest | .dbw8 _ :: rest | .dbw4 _ :: rest
  | .dbz :: rest | .bf _ :: rest => leastTime p rest

end Sys2Proof.Machine
end

