-- ==== Sys2Proof/Safety.lean ====
section
/-! DEFINITION. What claims speak of: the invariants of the block and of its pins (10_state.md R17,
R19, R21, R22), the device after it has taken everything it was sent, the agreement of block and
device (70_reset_and_hazards.md R213) and the stale display flag (60_exceptions.md R184). -/

namespace Sys2Proof.Machine

/-- `0 <= CUR_COL <= 23` whenever `INITED = 1` (10_state.md R17; `CUR_ROW` has one bit). -/
abbrev State.CursorInRange (s : State) : Prop :=
  s.inited = true → s.curCol.toNat ≤ Config.lastCol

/-- The pins between operations (10_state.md R22): `E = 0`, `RW = 0`, and `RS = 0` where the data
pins are released, which only a busy read (or reset) leaves behind. -/
abbrev State.PinsAtRest (s : State) : Prop :=
  s.pinE = false ∧ s.pinRw = false ∧ (s.pinDb = .released → s.pinRs = false)

/-- Data pins as wide as the bus of the mode drives them (10_state.md R21). -/
def DataPins.fits (bus8 : Bool) : DataPins → Bool
  | .released => true
  | .upper4 _ => !bus8
  | .all8 _ => bus8

/-- The data pins are driven as the mode's bus says once the block is Ready, and not at all before
(10_state.md R21, R27). -/
abbrev State.BusWidthKept (s : State) : Prop :=
  (s.inited = true → s.pinDb.fits s.modeBus8 = true) ∧ (s.inited = false → s.pinDb = .released)

/-- `RESULT` is 0 to 48, and 0 after an error (10_state.md R12, R19). -/
abbrev State.ReplyLegal (s : State) : Prop :=
  s.result.toNat ≤ Config.capacity ∧ (s.status ≠ .ok → s.result = 0)

/-- The machine is well formed: every invariant above, and DDRAM in its canonical form. -/
abbrev State.Wf (s : State) : Prop :=
  s.CursorInRange ∧ s.PinsAtRest ∧ s.BusWidthKept ∧ s.ReplyLegal ∧ s.device.ddram.wf = true

/-- The device takes one byte (20_memory.md R57). -/
def acceptTaken (x : BusItem) (s : State) : State :=
  match x.kind with
  | .data => acceptData x.byte s
  | .command =>
    match decodeCmd x.byte with
    | .ok i =>
      match exec i s with
      | .next t => t
      | .fault _ => s
      | .refused _ => s
    | .error _ => s.deviceUnspecified

/-- One byte reaches the device, which takes it unless its poll timed out and the free value says
that it is lost (40_transport.md R115). -/
def acceptItem (x : BusItem) (s : State) : State :=
  if x.sure then acceptTaken x s
  else if s.device.takesDoubtful then acceptTaken x s.deviceDraw
  else s.deviceDraw

/-- The device takes bytes in order. -/
def acceptAll (xs : List BusItem) (s : State) : State := xs.foldl (fun t x => acceptItem x t) s

/-- The machine once the device has taken every byte already on its way: what 20_memory.md R57 and
70_reset_and_hazards.md R213 look at between operations. -/
def State.drained (s : State) : State := acceptAll s.bus { s with bus := [] }

/-- The block's beliefs and the device agree (70_reset_and_hazards.md R213). -/
abbrev State.Synced (s : State) : Prop :=
  s.inited = true ∧ s.modeInc = true ∧ s.CursorInRange ∧
  s.drained.device.ac = s.cursorAddress ∧ s.drained.device.dir = .inc ∧
  s.drained.device.dispD = s.pwrOn ∧ s.drained.device.dispC = s.modeCursor ∧
  s.drained.device.dispB = s.modeBlink

/-- The latent hazard `StaleToggleState`: the tracked flag differs from the device's display-on bit
(60_exceptions.md R184). -/
abbrev State.StaleToggle (s : State) : Prop := s.pwrOn ≠ s.drained.device.dispD

/-- The commands a named operation of the block may send: the five of 30_encoding.md R85 with the
field values of R79 to R84. -/
def Instr.emittable : Instr → Bool
  | .cmdClear => true
  | .cmdEntry _ shift => !shift
  | .cmdDisplay _ _ _ => true
  | .cmdFunction _ _ _ ignored => ignored == 0
  | .cmdSetDdram _ => true
  | .cmdHome _ => false
  | .init _ | .wrch _ | .moveTo _ _ | .homeTop | .homeBot | .clearAll | .clearRow _
  | .togglePower | .remain | .xfer _ _ => false

/-- A byte on the bus that a named operation may send (30_encoding.md R85; data bytes are free). -/
def BusItem.emittable (x : BusItem) : Bool :=
  match x.kind with
  | .data => true
  | .command =>
    match decodeCmd x.byte with
    | .ok i => Instr.emittable i
    | .error _ => false

/-- Operations of the host run one after the other, each to its completion, as long as none times
out (42_display_ops.md R162, 70_reset_and_hazards.md R213 c). -/
def runOps : List Instr → State → Option State
  | [], s => some s
  | i :: is, s =>
    match exec i s with
    | .next t => if t.status = .hardwareTimeout then none else runOps is t
    | .fault _ => none
    | .refused _ => none

/-! ## The outcome of a transfer, said without the machine -/

/-- The device's answer to the `n`-th busy read from here on (40_transport.md R107): the listed
ones, then free values. -/
def State.answerAt (s : State) (n : Nat) : Bool :=
  (s.answers[n]?).getD (Config.busyAnswer (s.draws + (n - s.answers.length)))

/-- The number of busy answers before the first ready one, where that one comes within `POLL_LIMIT`
reads (40_transport.md R105). -/
def State.firstReady (s : State) : Option Nat :=
  (List.range s.params.pollLimit).find? (fun n => !s.answerAt n)

/-- How many busy reads the next polled handshake makes (40_transport.md R105). -/
def State.reads (s : State) : Nat :=
  match s.firstReady with
  | some k => k + 1
  | none => s.params.pollLimit

/-- The next transfer made with `fixed = false` times out (40_transport.md R104, R105): the mode
polls and every one of `POLL_LIMIT` answers is busy. -/
def State.timesOut (s : State) : Bool := s.modePoll && s.firstReady.isNone

/-- The state after a byte sent with a fixed delay (40_transport.md R100 to R104; 10_state.md
R22). -/
def sentFixed (kind : Kind) (byte : Byte) (s : State) : State :=
  { s with
    pinRs := kind.level, pinRw := false, pinE := false, pinDb := pinsAfterWrite s.modeBus8 byte,
    trace := s.trace ++ writeEvents s.modeBus8 kind byte ++ [.dly (classOf kind byte)],
    bus := s.bus ++ [⟨kind, byte, true⟩] }

/-- The state after a byte sent with a busy poll (40_transport.md R100 to R106; 10_state.md R22),
whether or not the poll times out. -/
def sentPolled (kind : Kind) (byte : Byte) (s : State) : State :=
  { s with
    pinRs := false, pinRw := false, pinE := false, pinDb := .released,
    trace := s.trace ++ writeEvents s.modeBus8 kind byte ++
      pollEvents s.modeBus8 ((List.range s.reads).map s.answerAt),
    bus := s.bus ++ [⟨kind, byte, s.firstReady.isSome⟩],
    answers := s.answers.drop s.reads, draws := s.draws + (s.reads - s.answers.length) }

/-- The state after a byte sent as `MODE.POLL` says (40_transport.md R104). -/
def sent (kind : Kind) (byte : Byte) (s : State) : State :=
  if s.modePoll then sentPolled kind byte s else sentFixed kind byte s

/-- The state after several bytes sent in order, none of which timed out. -/
def sentAll (xs : List BusItem) (s : State) : State := xs.foldl (fun t x => sent x.kind x.byte t) s

/-- No transfer of the list times out. -/
def allReady : List BusItem → State → Bool
  | [], _ => true
  | x :: xs, s => !s.timesOut && allReady xs (sent x.kind x.byte s)

/-- A command on the bus. -/
def cmdItem (b : Byte) : BusItem := ⟨.command, b, true⟩

/-- A data byte on the bus. -/
def dataItem (b : Byte) : BusItem := ⟨.data, b, true⟩

/-- The byte when its poll timed out: the device may or may not take it (40_transport.md R115). -/
def BusItem.doubtful (x : BusItem) : BusItem := { x with sure := false }

/-- The set-DDRAM-address of a position on the display (30_encoding.md R84). -/
def addressItem (p : Params) (col : Nat) (row : BitVec 1) : BusItem :=
  cmdItem (0x80 ||| ((if row = 0 then p.rowBase0 else p.rowBase1) + BitVec.ofNat 7 col).setWidth 8)

/-- The position the cursor takes at the end of a full row (41_addressing_cursor.md R137): row 1
from its start when row 0 wraps, else the last column. -/
def afterRowFull (wrap : Bool) (row : BitVec 1) : Nat × BitVec 1 :=
  if wrap && row == 0 then (0, 1) else (Config.lastCol, row)

/-- The set-DDRAM-address sent at the end of a full row (41_addressing_cursor.md R136, R137). -/
def rowFullItem (p : Params) (wrap : Bool) (row : BitVec 1) : BusItem :=
  addressItem p (afterRowFull wrap row).1 (afterRowFull wrap row).2

/-- The 27 transfers of `CLEAR_ROW` on a row (42_display_ops.md R158). -/
def clearRowItems (p : Params) (wrap : Bool) (row : BitVec 1) : List BusItem :=
  addressItem p 0 row :: List.replicate Config.cols (dataItem 0x20) ++
    [rowFullItem p wrap row, addressItem p 0 row]

/-- The bytes a run of characters sends from a column of a row until the row is full, and after
that with the cursor pinned to its last column (42_display_ops.md R154). -/
def pinnedRunItems (p : Params) (row : BitVec 1) (col : Nat) (cs : List Byte) : List BusItem :=
  (cs.take (Config.lastCol - col)).map dataItem ++
    (cs.drop (Config.lastCol - col)).flatMap
      (fun c => [dataItem c, addressItem p Config.lastCol row])

end Sys2Proof.Machine
end

