-- ==== Sys2Proof/Certificates/Slice0/Obligations.lean ====
section
/-! DEFINITION. The statements for the provers, each from the rules its docstring names. Expected
states are written with the spec-level functions of Sys2Proof/Safety.lean and
Sys2Proof/Machine/Trace.lean (`sent`, `timesOut`, `writeEvents`, `pollEvents`), not with the
machine's own operations. 'Log n' is notes/assumptions/n.md. -/

open Sys2Proof Sys2Proof.Machine

/-! ## Encoding -/

/-- Tier 1, encoding (30_encoding.md R72, R78). Words and bytes of the spec's encoding tables and
vectors (95_test_vectors.md section E) decode as those say. -/
def Obligations.ListedWordsDecodeAsTheSpecSays : Prop :=
  decodeOp 0x1023 = .ok (.init 0x23) ∧ decodeOp 0x1123 = .error .nonzeroField ∧
  decodeOp 0x2048 = .ok (.wrch 0x48) ∧ decodeOp 0x3105 = .ok (.moveTo 5 1) ∧
  decodeOp 0x3FFF = .ok (.moveTo 255 15) ∧ decodeOp 0x4000 = .ok .homeTop ∧
  decodeOp 0x4001 = .error .nonzeroField ∧ decodeOp 0x5000 = .ok .homeBot ∧
  decodeOp 0x6000 = .ok .clearAll ∧ decodeOp 0x7F00 = .ok (.clearRow 15) ∧
  decodeOp 0x8000 = .ok .togglePower ∧ decodeOp 0x9000 = .ok .remain ∧
  decodeOp 0xA00C = .ok (.xfer .command 0x0C) ∧ decodeOp 0xA141 = .ok (.xfer .data 0x41) ∧
  decodeOp 0xA200 = .error .nonzeroField ∧ decodeOp 0xB000 = .error .reservedOp ∧
  decodeCmd 0x01 = .ok .cmdClear ∧ decodeCmd 0x03 = .ok (.cmdHome true) ∧
  decodeCmd 0x06 = .ok (.cmdEntry true false) ∧
  decodeCmd 0x0D = .ok (.cmdDisplay true false true) ∧
  decodeCmd 0x38 = .ok (.cmdFunction true true false 0) ∧
  decodeCmd 0xC5 = .ok (.cmdSetDdram 0x45)

/-- Tier 3, encoding (30_encoding.md R72, R78): decoding the encoding of an instruction gives it
back, for every instruction and every operand. -/
def Obligations.DecodeOfEncodeIsTheInstruction : Prop :=
  ∀ i : Instr, decode (encode i) = .ok i

/-- Tier 2, encoding: a word or byte that decodes is the encoding of what it decodes to, so no bit
of it is dropped and no two codes share a meaning. -/
def Obligations.EncodeOfDecodeIsTheCode : Prop :=
  ∀ (c : Code) (i : Instr), decode c = .ok i → encode i = c

/-- Tier 2, encoding (30_encoding.md R72): the decoder accepts exactly the words the match/mask table
selects, and each of them by the one row of its own mnemonic. -/
def Obligations.DecoderAgreesWithTheMatchMaskTable : Prop :=
  (∀ w : OpWord, (∃ i, decodeOp w = .ok i) ↔ ∃ r ∈ opwTable, r.selects w = true) ∧
  (∀ (w : OpWord) (i : Instr), decodeOp w = .ok i → (Code.opw w).rows = [i.mnemonic])

/-- Tier 2, encoding (30_encoding.md R78; 20_memory.md R58): the device's decoder accepts exactly the
bytes the match/mask table of the six commands selects, each by the one row of its own mnemonic, and
every operand is its field of that table. The values are PRESUMED (log 5). -/
def Obligations.CommandDecoderAgreesWithItsMatchMaskTable : Prop :=
  (∀ b : Byte, (∃ i, decodeCmd b = .ok i) ↔ ∃ r ∈ cmd8Table, r.selects b = true) ∧
  (∀ (b : Byte) (i : Instr), decodeCmd b = .ok i →
    (Code.cmd8 b).rows = [i.mnemonic] ∧
    match i with
    | .cmdClear => True
    | .cmdHome ignored => ignored = b.getLsbD 0
    | .cmdEntry inc shift => inc = b.getLsbD 1 ∧ shift = b.getLsbD 0
    | .cmdDisplay on cursor blink =>
      on = b.getLsbD 2 ∧ cursor = b.getLsbD 1 ∧ blink = b.getLsbD 0
    | .cmdFunction bus8 two font11 ignored =>
      bus8 = b.getLsbD 4 ∧ two = b.getLsbD 3 ∧ font11 = b.getLsbD 2 ∧
      ignored = b.extractLsb' 0 2
    | .cmdSetDdram addr => addr = b.extractLsb' 0 7
    | .init _ | .wrch _ | .moveTo _ _ | .homeTop | .homeBot | .clearAll | .clearRow _
    | .togglePower | .remain | .xfer _ _ => False)

/-- Tier 2, encoding (30_encoding.md R73): every operand is its field, taken as it stands. -/
def Obligations.OperandsAreTheirFields : Prop :=
  ∀ (w : OpWord) (i : Instr), decodeOp w = .ok i →
    match i with
    | .init mode => mode = w.extractLsb' 0 8
    | .wrch d => d = w.extractLsb' 0 8
    | .moveTo col row => col = w.extractLsb' 0 8 ∧ row = w.extractLsb' 8 4
    | .clearRow row => row = w.extractLsb' 8 4
    | .xfer kind byte => kind.level = w.getLsbD 8 ∧ byte = w.extractLsb' 0 8
    | .homeTop | .homeBot | .clearAll | .togglePower | .remain => True
    | .cmdClear | .cmdHome _ | .cmdEntry _ _ | .cmdDisplay _ _ _ | .cmdFunction _ _ _ _
    | .cmdSetDdram _ => False

/-- Tier 2 (30_encoding.md R76; 60_exceptions.md R185): which words are reserved, and that a reserved
word presented to the idle block changes only `STATUS` and `RESULT`, in every state, Ready or not. -/
def Obligations.ReservedWordsAreIllegalOperations : Prop :=
  (∀ w : OpWord, (∃ e, decodeOp w = .error e) ↔
    (w.extractLsb' 12 4 = 0 ∨ 0xB ≤ (w.extractLsb' 12 4).toNat) ∨
    ((w.extractLsb' 12 4 = 1 ∨ w.extractLsb' 12 4 = 2) ∧ w.extractLsb' 8 4 ≠ 0) ∨
    ((w.extractLsb' 12 4 = 4 ∨ w.extractLsb' 12 4 = 5 ∨ w.extractLsb' 12 4 = 6 ∨
      w.extractLsb' 12 4 = 8 ∨ w.extractLsb' 12 4 = 9) ∧ w.extractLsb' 0 12 ≠ 0) ∨
    (w.extractLsb' 12 4 = 7 ∧ w.extractLsb' 0 8 ≠ 0) ∨
    (w.extractLsb' 12 4 = 10 ∧ w.extractLsb' 9 3 ≠ 0)) ∧
  (∀ (s : State) (w : OpWord) (rest : List Request) (e : DecodeError),
    s.bus = [] → s.host = .word w :: rest → decodeOp w = .error e →
      step s = .next { s with host := rest, status := .illegalOperation, result := 0 })

/-- Tier 1, encoding (30_encoding.md R79 to R84): the bytes the builders give, and what the device
reads in them.
The values are PRESUMED (log 5). -/
def Obligations.CommandBuildersGiveTheirBytes : Prop :=
  cmdClearByte = 0x01 ∧ cmdHomeByte = 0x02 ∧ cmdEntryByte true = 0x06 ∧ cmdEntryByte false = 0x04 ∧
  (∀ inc, decodeCmd (cmdEntryByte inc) = .ok (.cmdEntry inc false)) ∧
  (∀ on cursor blink, decodeCmd (cmdDisplayByte on cursor blink) =
    .ok (.cmdDisplay on cursor blink)) ∧
  (∀ bus8 two font11, decodeCmd (cmdFunctionByte bus8 two font11) =
    .ok (.cmdFunction bus8 two font11 0)) ∧
  (∀ a, decodeCmd (cmdSetDdramByte a) = .ok (.cmdSetDdram a) ∧
    (cmdSetDdramByte a).toNat = 0x80 + a.toNat)

/-! ## Transport

Where a byte goes and what answers a busy read are the model's own bookkeeping and no rule of the
spec: `bus` (log 12), and `answers` with `draws` (log 8). Statements that give the whole next state
therefore have basis 'derived'. -/

/-- Tier 2 (40_transport.md R100 to R106, R115): one transfer, for every kind, byte, mode and state.
With a fixed delay it always ends well. With a busy poll it makes `k + 1` reads when the device is
ready at read `k + 1` of at most `POLL_LIMIT`, and times out after `POLL_LIMIT` busy reads. The pins,
the events and the byte the device gets are those of `sentFixed` and `sentPolled`, and nothing else
changes. -/
def Obligations.TransferIsStrobeThenHandshake : Prop :=
  ∀ (kind : Kind) (byte : Byte) (fixed : Bool) (s : State), 1 ≤ s.params.pollLimit →
    (fixed = true ∨ s.modePoll = false →
      transfer kind byte fixed s = (.ok, sentFixed kind byte s)) ∧
    (fixed = false → s.modePoll = true →
      transfer kind byte fixed s =
        (if s.firstReady.isNone then .timeout else .ok, sentPolled kind byte s))

/-- Tier 1 (40_transport.md R103): the wait class. -/
def Obligations.WaitClassIsLongForClearAndHome : Prop :=
  ∀ (kind : Kind) (byte : Byte),
    classOf kind byte =
      if kind = .command ∧ (byte = 0x01 ∨ byte = 0x02 ∨ byte = 0x03) then .long else .short

/-- Tier 2 (40_transport.md R113): `XFER` for both kinds, every byte, mode and state: its encoding,
the gate, completion, and a timeout. -/
def Obligations.XferSendsOneRawByte : Prop :=
  ∀ (kind : Kind) (byte : Byte) (s : State), 1 ≤ s.params.pollLimit →
    decodeOp (0xA000 ||| ((bit1 kind.level).setWidth 16 <<< 8) ||| byte.setWidth 16) =
      .ok (.xfer kind byte) ∧
    (s.inited = false → exec (.xfer kind byte) s =
      .next { s with status := .precallSequenceViolation, result := 0 }) ∧
    (s.inited = true → s.timesOut = false → exec (.xfer kind byte) s =
      .next { sent kind byte s with status := .ok, result := 0 }) ∧
    (s.inited = true → s.timesOut = true → exec (.xfer kind byte) s =
      .next { sent kind byte s with status := .hardwareTimeout, result := 0 })

/-- Tier 3, invariant (40_transport.md R112): where the pin trace has a transfer trace, a step
extends both: the new pin trace parses, its transfer trace begins with the old one, and the bytes
added are exactly those put on their way to the device. -/
def Obligations.EveryStepKeepsTheTraceParsed : Prop :=
  ∀ (s t : State) (items : List Item), 1 ≤ s.params.pollLimit →
    transferTrace s.trace = some items → step s = .next t →
      ∃ new, transferTrace t.trace = some (items ++ new) ∧
        (s.bus = [] → t.bus = busItems new) ∧ (s.bus ≠ [] → new = [] ∧ t.bus = s.bus.tail)

/-! ## Addressing and cursor -/

/-- Tier 2 (41_addressing_cursor.md R130, 00_scope.md R5): for all valid positions the address is the
row base plus the column, with no carry out of 7 bits, and the line gap is not the row width; with
the bases of the spec the gap is 0x40.
The bases of the spec are PRESUMED (log 4). -/
def Obligations.ResolveIsRowBasePlusColumn : Prop :=
  (∀ (p : Params) (col : Byte) (row : Nibble), p.Legal → col.toNat < 24 →
    (resolve p col row).toNat =
      (if row = 1 then p.rowBase1.toNat else p.rowBase0.toNat) + col.toNat) ∧
  (∀ p : Params, p.Legal → p.lineGap ≠ 24) ∧
  Config.params.lineGap = 0x40 ∧ Config.params.Legal

/-- Tier 2 (41_addressing_cursor.md R131 to R133, 60_exceptions.md R182): `MOVE_TO` for every column,
row and state: its encoding, the gate first, the column check, the row clamp, completion, and a
timeout with the cursor already moved. -/
def Obligations.MoveToGoesToTheClampedPosition : Prop :=
  ∀ (col : Byte) (row : Nibble) (s : State), 1 ≤ s.params.pollLimit →
    decodeOp (0x3000 ||| (row.setWidth 16 <<< 8) ||| col.setWidth 16) = .ok (.moveTo col row) ∧
    (s.inited = false → exec (.moveTo col row) s =
      .next { s with status := .precallSequenceViolation, result := 0 }) ∧
    (s.inited = true → 24 ≤ col.toNat → exec (.moveTo col row) s =
      .next { s with status := .invalidPosition, result := 0 }) ∧
    (s.inited = true → col.toNat < 24 → exec (.moveTo col row) s =
      .next
        { sent .command
            (addressItem s.params col.toNat (if row = 1 then 1 else 0)).byte s with
          curCol := BitVec.ofNat 5 col.toNat, curRow := if row = 1 then 1 else 0,
          status := if s.timesOut then .hardwareTimeout else .ok, result := 0 })

/-- Tier 2 (41_addressing_cursor.md R134, R135): the homes, in every state. -/
def Obligations.HomesGoToTheRowStarts : Prop :=
  ∀ s : State, 1 ≤ s.params.pollLimit →
    decodeOp 0x4000 = .ok .homeTop ∧ decodeOp 0x5000 = .ok .homeBot ∧
    (s.inited = false →
      exec .homeTop s = .next { s with status := .precallSequenceViolation, result := 0 } ∧
      exec .homeBot s = .next { s with status := .precallSequenceViolation, result := 0 }) ∧
    (s.inited = true →
      exec .homeTop s =
        .next
          { sent .command (addressItem s.params 0 0).byte s with
            curCol := 0, curRow := 0,
            status := if s.timesOut then .hardwareTimeout else .ok, result := 0 } ∧
      exec .homeBot s =
        .next
          { sent .command (addressItem s.params 0 1).byte s with
            curCol := 0, curRow := 1,
            status := if s.timesOut then .hardwareTimeout else .ok, result := 0 })

/-- Tier 2 (41_addressing_cursor.md R136, R137): stepping the cursor, for every position on the
display, every mode and every answer of the device. -/
def Obligations.AdvanceStepsWrapsOrSaturates : Prop :=
  ∀ s : State, 1 ≤ s.params.pollLimit → s.curCol.toNat ≤ 23 →
    (s.curCol.toNat ≤ 22 → advanceAfterWrite s = .on { s with curCol := s.curCol + 1 }) ∧
    (s.curCol.toNat = 23 →
      let pos := if s.modeWrap = true ∧ s.curRow = 0 then ((0, 1) : BitVec 5 × BitVec 1)
        else (23, s.curRow)
      let t := { sent .command (addressItem s.params pos.1.toNat pos.2).byte s with
        curCol := pos.1, curRow := pos.2 }
      advanceAfterWrite s = if s.timesOut then .raised .hardwareTimeout t else .on t)

/-- Tier 2 (41_addressing_cursor.md R139): `REMAIN` in every state: no pin event, no transfer, and
the count. -/
def Obligations.RemainCountsTheCellsLeft : Prop :=
  decodeOp 0x9000 = .ok .remain ∧
  ∀ s : State,
    (s.inited = false → exec .remain s =
      .next { s with status := .precallSequenceViolation, result := 0 }) ∧
    (s.inited = true → s.CursorInRange → ∃ v : Byte,
      exec .remain s = .next { s with status := .ok, result := v } ∧
      v.toNat = (if s.curRow = 0 then 48 else 24) - s.curCol.toNat ∧ 1 ≤ v.toNat)

/-! ## Display operations -/

/-- Tier 2 (42_display_ops.md R150, R151): `INIT` in every state, Ready or not, and for every mode
byte: the four commands in order, each with a fixed delay of its class whatever `MODE.POLL` says,
the registers after it, and the nine items of its transfer trace. -/
def Obligations.InitRunsThePowerOnSequence : Prop :=
  ∀ (mode : Byte) (s : State),
    decodeOp (0x1000 ||| mode.setWidth 16) = .ok (.init mode) ∧
    ∃ t, exec (.init mode) s = .next t ∧
      t = { sentFixed .command (cmdEntryByte (mode.getLsbD 5))
            (sentFixed .command 0x01
              (sentFixed .command (cmdDisplayByte true (mode.getLsbD 3) (mode.getLsbD 4))
                (sentFixed .command
                  (cmdFunctionByte (mode.getLsbD 0) (mode.getLsbD 1) (mode.getLsbD 2))
                  { s with mode := mode, trace := s.trace ++ [.dly .pwr] }))) with
          curCol := 0, curRow := 0, pwrOn := true, inited := true, status := .ok, result := 0 } ∧
      transferTrace (t.trace.drop s.trace.length) =
        some [.wait .pwr,
          .xfer .command (cmdFunctionByte (mode.getLsbD 0) (mode.getLsbD 1) (mode.getLsbD 2)),
          .wait .short,
          .xfer .command (cmdDisplayByte true (mode.getLsbD 3) (mode.getLsbD 4)), .wait .short,
          .xfer .command 0x01, .wait .long,
          .xfer .command (cmdEntryByte (mode.getLsbD 5)), .wait .short]

/-- Tier 2 (42_display_ops.md R153): `WRCH` for every byte, mode, answer and position on the display:
its encoding, the gate, the data byte, the step of the cursor, and a timeout of either transfer. -/
def Obligations.WrchWritesAndSteps : Prop :=
  ∀ (d : Byte) (s : State), 1 ≤ s.params.pollLimit → s.CursorInRange →
    decodeOp (0x2000 ||| d.setWidth 16) = .ok (.wrch d) ∧
    (s.inited = false → exec (.wrch d) s =
      .next { s with status := .precallSequenceViolation, result := 0 }) ∧
    (s.inited = true → s.timesOut = true → exec (.wrch d) s =
      .next { sent .data d s with status := .hardwareTimeout, result := 0 }) ∧
    (s.inited = true → s.timesOut = false → s.curCol.toNat ≤ 22 → exec (.wrch d) s =
      .next { sent .data d s with curCol := s.curCol + 1, status := .ok, result := 0 }) ∧
    (s.inited = true → s.timesOut = false → s.curCol.toNat = 23 →
      exec (.wrch d) s =
        .next
          { sent .command (rowFullItem s.params s.modeWrap s.curRow).byte (sent .data d s) with
            curCol := BitVec.ofNat 5 (afterRowFull s.modeWrap s.curRow).1,
            curRow := (afterRowFull s.modeWrap s.curRow).2,
            status := if (sent .data d s).timesOut then .hardwareTimeout else .ok, result := 0 })

/-- Tier 2 (42_display_ops.md R154): a run of successful `WRCH` operations from any position of the
display: where the cursor ends and which bytes go to the device, without overflow, with a wrap to
row 1, and pinned to the last column. -/
def Obligations.RunOfWritesMovesTheCursor : Prop :=
  ∀ (cs : List Byte) (s t : State), 1 ≤ s.params.pollLimit → s.inited = true → s.CursorInRange →
    s.status = .ok → writeString cs s = .next t → t.status = .ok →
    (s.curCol.toNat + cs.length ≤ 23 →
      t.curCol.toNat = s.curCol.toNat + cs.length ∧ t.curRow = s.curRow ∧
      t.bus = s.bus ++ cs.map dataItem) ∧
    (24 ≤ s.curCol.toNat + cs.length → s.curRow = 0 → s.modeWrap = true →
      t.curCol.toNat = min 23 (cs.length - (24 - s.curCol.toNat)) ∧ t.curRow = 1 ∧
      t.bus = s.bus ++ (cs.take (24 - s.curCol.toNat)).map dataItem ++ [addressItem s.params 0 1] ++
        pinnedRunItems s.params 1 0 (cs.drop (24 - s.curCol.toNat))) ∧
    (24 ≤ s.curCol.toNat + cs.length → s.curRow = 1 ∨ s.modeWrap = false →
      t.curCol.toNat = 23 ∧ t.curRow = s.curRow ∧
      t.bus = s.bus ++ pinnedRunItems s.params s.curRow s.curCol.toNat cs)

/-- Tier 2 (42_display_ops.md R155): the host writes a string character by character and stops after
the first whose status is not 0, both as a host-side run and in the machine's own steps.
The list of requests is the model's (log 11). -/
def Obligations.WriteStringStopsAtTheFirstError : Prop :=
  (∀ s : State, writeString [] s = .next s) ∧
  (∀ (c : Byte) (cs : List Byte) (s t : State), exec (.wrch c) s = .next t →
    writeString (c :: cs) s = if t.status = .ok then writeString cs t else .next t) ∧
  (∀ (s t : State) (c : Byte) (cs : List Byte) (rest : List Request),
    s.bus = [] → s.host = .string (c :: cs) :: rest →
    exec (.wrch c) { s with host := .string cs :: rest } = .next t →
    step s = .next (if t.status = .ok then t else { t with host := rest }))

/-- Tier 2 (42_display_ops.md R157): `CLEAR_ALL` in every state: the cursor is reset only when the
transfer does not time out. -/
def Obligations.ClearAllClearsThenHomes : Prop :=
  ∀ s : State, 1 ≤ s.params.pollLimit →
    decodeOp 0x6000 = .ok .clearAll ∧
    (s.inited = false → exec .clearAll s =
      .next { s with status := .precallSequenceViolation, result := 0 }) ∧
    (s.inited = true → s.timesOut = false → exec .clearAll s =
      .next
        { sent .command 0x01 s with curCol := 0, curRow := 0, status := .ok, result := 0 }) ∧
    (s.inited = true → s.timesOut = true → exec .clearAll s =
      .next { sent .command 0x01 s with status := .hardwareTimeout, result := 0 })

/-- Tier 2 (42_display_ops.md R158): `CLEAR_ROW` for every row operand, mode and state in which its
27 transfers do not time out: exactly those transfers, and the cursor at the start of the row. -/
def Obligations.ClearRowMakesTwentySevenTransfers : Prop :=
  ∀ (row : Nibble) (s : State), 1 ≤ s.params.pollLimit →
    let r : BitVec 1 := if row = 1 then 1 else 0
    decodeOp (0x7000 ||| (row.setWidth 16 <<< 8)) = .ok (.clearRow row) ∧
    (clearRowItems s.params s.modeWrap r).length = 27 ∧
    (s.inited = false → exec (.clearRow row) s =
      .next { s with status := .precallSequenceViolation, result := 0 }) ∧
    (s.inited = true → allReady (clearRowItems s.params s.modeWrap r) s = true →
      exec (.clearRow row) s =
        .next
          { sentAll (clearRowItems s.params s.modeWrap r) s with
            curCol := 0, curRow := r, status := .ok, result := 0 })

/-- Tier 2 (42_display_ops.md R160): `TOGGLE_POWER` in every state: the flag is flipped before the
command is sent and stays flipped after a timeout; twice restores it. -/
def Obligations.TogglePowerFlipsTheFlag : Prop :=
  ∀ s : State, 1 ≤ s.params.pollLimit →
    decodeOp 0x8000 = .ok .togglePower ∧
    (s.inited = false → exec .togglePower s =
      .next { s with status := .precallSequenceViolation, result := 0 }) ∧
    (s.inited = true → exec .togglePower s =
      .next
        { sent .command (cmdDisplayByte (!s.pwrOn) s.modeCursor s.modeBlink) s with
          pwrOn := !s.pwrOn,
          status := if s.timesOut then .hardwareTimeout else .ok, result := 0 }) ∧
    (s.inited = true → ∀ t u, exec .togglePower s = .next t → exec .togglePower t = .next u →
      u.pwrOn = s.pwrOn ∧
      u.bus = s.bus ++
        [⟨.command, cmdDisplayByte (!s.pwrOn) s.modeCursor s.modeBlink, t.status == .ok⟩,
          ⟨.command, cmdDisplayByte s.pwrOn s.modeCursor s.modeBlink, u.status == .ok⟩])

/-! ## Errors -/

/-- Tier 1 (60_exceptions.md R180; 30_encoding.md R70): the codes of `STATUS`, no two the same, and the
response: `STATUS` in bits 10:8 and `RESULT` in bits 7:0. The numbers and the port are decisions of
the spec itself, which the model follows (log 9). -/
def Obligations.StatusCodesAndResponse : Prop :=
  Status.code .ok = 0 ∧ Status.code .hardwareTimeout = 1 ∧ Status.code .invalidPosition = 2 ∧
  Status.code .precallSequenceViolation = 3 ∧ Status.code .illegalOperation = 4 ∧
  (∀ a b : Status, a.code = b.code → a = b) ∧
  (∀ s : State, s.resp.extractLsb' 8 3 = s.status.code ∧ s.resp.extractLsb' 0 8 = s.result)

/-- Tier 2 (60_exceptions.md R183): every operation but `INIT` is rejected in Uninitialized, with no
state change and no pin event. -/
def Obligations.OperationsBeforeInitAreRejected : Prop :=
  ∀ (i : Instr) (s : State), i.isHostOp = true → (∀ mode, i ≠ .init mode) → s.inited = false →
    exec i s = .next { s with status := .precallSequenceViolation, result := 0 }

/-- Tier 2 (60_exceptions.md R182): `MOVE_TO` with a column of 24 or more in Ready reports
`InvalidPosition` and has no other effect, whatever the row; nothing else ever reports it. -/
def Obligations.OnlyMoveToReportsInvalidPosition : Prop :=
  (∀ (i : Instr) (s t : State), i.isHostOp = true → exec i s = .next t →
    t.status = .invalidPosition →
      (∃ col row, i = .moveTo col row ∧ 24 ≤ col.toNat) ∧
      t = { s with status := .invalidPosition, result := 0 }) ∧
  (∀ (col : Byte) (row : Nibble) (s : State), s.inited = true → 24 ≤ col.toNat →
    exec (.moveTo col row) s = .next { s with status := .invalidPosition, result := 0 })

/-- Tier 2 (60_exceptions.md R187): the order of the checks, at the operation port of a machine whose
device has nothing left to take: a reserved word, then the gate, then the column; a timeout is
reported only where none of the three applies. -/
def Obligations.ErrorsFollowTheirPriority : Prop :=
  ∀ (s : State) (w : OpWord) (rest : List Request), s.bus = [] → s.host = .word w :: rest →
    (∀ e, decodeOp w = .error e →
      step s = .next { s with host := rest, status := .illegalOperation, result := 0 }) ∧
    (∀ i, decodeOp w = .ok i → (∀ mode, i ≠ .init mode) → s.inited = false →
      step s = .next { s with host := rest, status := .precallSequenceViolation, result := 0 }) ∧
    (∀ col row, decodeOp w = .ok (.moveTo col row) → s.inited = true → 24 ≤ col.toNat →
      step s = .next { s with host := rest, status := .invalidPosition, result := 0 }) ∧
    (∀ t, step s = .next t → t.status = .hardwareTimeout →
      s.inited = true ∧ ∃ i, decodeOp w = .ok i ∧
        ∀ col row, i = .moveTo col row → col.toNat < 24)

/-- Tier 2 (60_exceptions.md R190): the state after a `HardwareTimeout`, operation by operation: what
had been done stays done, nothing after the failing transfer happens, and the block stays Ready. The
bytes added to the bus say which transfer failed: the last one, which the device may or may not have
taken (40_transport.md R115). -/
def Obligations.TimeoutKeepsEarlierEffects : Prop :=
  ∀ (i : Instr) (s t : State), 1 ≤ s.params.pollLimit → s.CursorInRange → i.isHostOp = true →
    exec i s = .next t → t.status = .hardwareTimeout →
    s.inited = true ∧ t.inited = true ∧ s.modePoll = true ∧ t.mode = s.mode ∧ t.PinsAtRest ∧
    match i with
    | .xfer kind byte =>
      t.bus = s.bus ++ [⟨kind, byte, false⟩] ∧ t.curCol = s.curCol ∧ t.curRow = s.curRow ∧
      t.pwrOn = s.pwrOn
    | .moveTo col row =>
      t.curCol.toNat = col.toNat ∧ t.curRow = (if row = 1 then 1 else 0) ∧ t.pwrOn = s.pwrOn ∧
      t.bus = s.bus ++
        [(addressItem s.params col.toNat (if row = 1 then 1 else 0)).doubtful]
    | .homeTop =>
      t.curCol = 0 ∧ t.curRow = 0 ∧ t.pwrOn = s.pwrOn ∧
      t.bus = s.bus ++ [(addressItem s.params 0 0).doubtful]
    | .homeBot =>
      t.curCol = 0 ∧ t.curRow = 1 ∧ t.pwrOn = s.pwrOn ∧
      t.bus = s.bus ++ [(addressItem s.params 0 1).doubtful]
    | .wrch d =>
      t.pwrOn = s.pwrOn ∧
      ((t.bus = s.bus ++ [(dataItem d).doubtful] ∧ t.curCol = s.curCol ∧ t.curRow = s.curRow) ∨
        (s.curCol.toNat = 23 ∧
          t.bus = s.bus ++ [dataItem d, (rowFullItem s.params s.modeWrap s.curRow).doubtful] ∧
          t.curCol.toNat = (afterRowFull s.modeWrap s.curRow).1 ∧
          t.curRow = (afterRowFull s.modeWrap s.curRow).2))
    | .clearAll =>
      t.bus = s.bus ++ [(cmdItem 0x01).doubtful] ∧ t.curCol = s.curCol ∧ t.curRow = s.curRow ∧
      t.pwrOn = s.pwrOn
    | .togglePower =>
      t.pwrOn = (!s.pwrOn) ∧ t.curCol = s.curCol ∧ t.curRow = s.curRow ∧
      t.bus = s.bus ++ [(cmdItem (cmdDisplayByte (!s.pwrOn) s.modeCursor s.modeBlink)).doubtful]
    | .clearRow row =>
      let r : BitVec 1 := if row = 1 then 1 else 0
      t.pwrOn = s.pwrOn ∧
      ((t.bus = s.bus ++ [(addressItem s.params 0 r).doubtful] ∧ t.curCol = 0 ∧ t.curRow = r) ∨
        (∃ n < 24,
          t.bus = s.bus ++ addressItem s.params 0 r :: List.replicate n (dataItem 0x20) ++
            [(dataItem 0x20).doubtful] ∧
          t.curCol.toNat = n ∧ t.curRow = r) ∨
        (t.bus = s.bus ++ addressItem s.params 0 r :: List.replicate 24 (dataItem 0x20) ++
            [(rowFullItem s.params s.modeWrap r).doubtful] ∧
          t.curCol.toNat = (afterRowFull s.modeWrap r).1 ∧
          t.curRow = (afterRowFull s.modeWrap r).2) ∨
        (t.bus = s.bus ++ addressItem s.params 0 r :: List.replicate 24 (dataItem 0x20) ++
            [rowFullItem s.params s.modeWrap r, (addressItem s.params 0 r).doubtful] ∧
          t.curCol = 0 ∧ t.curRow = r))
    | .init _ | .remain => False
    | .cmdClear | .cmdHome _ | .cmdEntry _ _ | .cmdDisplay _ _ _ | .cmdFunction _ _ _ _
    | .cmdSetDdram _ => False

/-- Tier 2 (60_exceptions.md R188): an error writes `STATUS` and `RESULT` and nothing else, and errors
2, 3 and 4 leave everything as before the operation (4 arises at decode, so in the step that takes
the reserved word from the host). -/
def Obligations.EarlyErrorsArePrecise : Prop :=
  (∀ (err : Status) (s : State), raise err s = { s with status := err, result := 0 }) ∧
  (∀ (i : Instr) (s t : State), i.isHostOp = true → exec i s = .next t →
    (t.status = .invalidPosition ∨ t.status = .precallSequenceViolation ∨
      t.status = .illegalOperation) →
    t = { s with status := t.status, result := 0 } ∧ t.status ≠ .illegalOperation) ∧
  (∀ (s : State) (w : OpWord) (rest : List Request) (e : DecodeError),
    s.bus = [] → s.host = .word w :: rest → decodeOp w = .error e →
      step s = .next (raise .illegalOperation { s with host := rest }))

/-- Tier 1 (42_display_ops.md R162 for the operations; 20_memory.md R59 to R61 and log 24 for the six
commands of the device): every instruction ends in a next state, in every state. -/
def Obligations.EveryInstructionEnds : Prop :=
  ∀ (i : Instr) (s : State), ∃ t, exec i s = .next t

/-! ## Who writes what -/

/-- Tier 2 (10_state.md R15, R16, R18): only `INIT` writes `MODE` and enters Ready, nothing leaves
Ready, every other host operation is rejected before it, and only `INIT` and `TOGGLE_POWER` write
`PWR_ON`. -/
def Obligations.FlagsAndModeHaveTheirWriters : Prop :=
  ∀ (i : Instr) (s t : State), exec i s = .next t →
    ((∀ mode, i ≠ .init mode) → t.mode = s.mode ∧ t.inited = s.inited) ∧
    ((∀ mode, i ≠ .init mode) → i.isHostOp = true → s.inited = false →
      t = { s with status := .precallSequenceViolation, result := 0 }) ∧
    (∀ mode, i = .init mode → t.mode = mode ∧ t.inited = true ∧ t.pwrOn = true) ∧
    (i = .togglePower → s.inited = true → t.pwrOn = !s.pwrOn) ∧
    (i = .togglePower → s.inited = false → t.pwrOn = s.pwrOn) ∧
    ((∀ mode, i ≠ .init mode) → i ≠ .togglePower → t.pwrOn = s.pwrOn)

/-- Tier 2 (10_state.md R12, R19): what a host operation leaves unchanged: the host's further
requests, the parameters and the whole device, every cell of DDRAM included; the trace and the bytes
on their way are only added to; and the cursor only changes in the operations the table of R12
names. That the device acts on the bytes later, in steps of its own, is the model's (log 12). -/
def Obligations.HostOperationsLeaveTheDeviceAlone : Prop :=
  ∀ (i : Instr) (s t : State), i.isHostOp = true → exec i s = .next t →
    t.host = s.host ∧ t.params = s.params ∧ t.device = s.device ∧
    (∀ a, t.device.ddram.read a = s.device.ddram.read a) ∧
    (∃ evs, t.trace = s.trace ++ evs) ∧ (∃ xs, t.bus = s.bus ++ xs) ∧
    ((i = .togglePower ∨ i = .remain ∨ ∃ kind byte, i = .xfer kind byte) →
      t.curCol = s.curCol ∧ t.curRow = s.curRow) ∧
    (i = .remain → t = { s with status := t.status, result := t.result })

/-- Tier 2 (20_memory.md R55 to R60): what a command of the device leaves unchanged: every register
and pin of the block, the trace, the inputs; and every cell of DDRAM, except for clear. -/
def Obligations.DeviceCommandsLeaveTheBlockAlone : Prop :=
  ∀ (i : Instr) (s t : State), i.isCommand = true → exec i s = .next t →
    t = { s with device := t.device } ∧
    (i ≠ .cmdClear → ∀ a, t.device.ddram.read a = s.device.ddram.read a)

/-- Tier 2 (10_state.md R19; 60_exceptions.md R189): `RESULT` is a count only after a successful
`REMAIN`, and 0 after every other operation and every error. -/
def Obligations.ResultIsZeroButForRemain : Prop :=
  ∀ (i : Instr) (s t : State), i.isHostOp = true → exec i s = .next t →
    (i ≠ .remain ∨ t.status ≠ .ok → t.result = 0)

/-! ## The device -/

/-- Tier 2 (20_memory.md R59 to R61): the six commands at the device, in every state; clear fills
every cell.
The device is PRESUMED (log 13), and that the shift bit has no effect is DEDUCED (log 15). -/
def Obligations.DeviceCommandsActAsTheReference : Prop :=
  ∀ s : State,
    (∃ m : Memory,
      exec .cmdClear s =
        .next { s with device := { s.device with ddram := m, ac := 0, dir := .inc } } ∧
      ∀ a : Address, m.read a = 0x20) ∧
    (∀ x, exec (.cmdHome x) s = .next { s with device := { s.device with ac := 0 } }) ∧
    (∀ inc shift, exec (.cmdEntry inc shift) s =
      .next { s with device := { s.device with dir := if inc then .inc else .dec } }) ∧
    (∀ on cursor blink, exec (.cmdDisplay on cursor blink) s =
      .next { s with device :=
        { s.device with dispD := on, dispC := cursor, dispB := blink } }) ∧
    (∀ bus8 two font11 x, exec (.cmdFunction bus8 two font11 x) s = .next s) ∧
    (∀ a, exec (.cmdSetDdram a) s = .next { s with device := { s.device with ac := a } })

/-- Tier 2, refinement (20_memory.md R59): the filled DDRAM is what the rule's loop of writes over
all 128 addresses leaves, whatever was there before.
The device is PRESUMED (log 13). -/
def Obligations.ClearIsTheLoopOfWrites : Prop :=
  ∀ (m : Memory) (v : Byte), m.wf = true →
    (List.range 128).foldl (fun m' a => m'.write (BitVec.ofNat 7 a) v) m = Memory.filled v

/-- Tier 2 (20_memory.md R61, R52): a data byte that the device takes is stored at the address
counter, every other cell keeps its content, and the counter steps by one modulo 128 in the
device's direction; the block is not touched.
The device and its steps are the model's (logs 12, 13). -/
def Obligations.DataByteIsStoredAtTheCounter : Prop :=
  ∀ (s : State) (d : Byte) (rest : List BusItem), s.bus = dataItem d :: rest →
    ∃ t, step s = .next t ∧ t = { s with bus := rest, device := t.device } ∧
      t.device.ddram.read s.device.ac = d ∧
      (∀ a : Address, a ≠ s.device.ac → t.device.ddram.read a = s.device.ddram.read a) ∧
      t.device.ac.toNat =
        (match s.device.dir with
          | .inc => (s.device.ac.toNat + 1) % 128
          | .dec => (s.device.ac.toNat + 127) % 128) ∧
      t.device.dir = s.device.dir ∧ t.device.dispD = s.device.dispD ∧
      t.device.dispC = s.device.dispC ∧ t.device.dispB = s.device.dispB ∧
      t.device.draws = s.device.draws

/-- Tier 1 (40_transport.md R115; 60_exceptions.md R190): a byte whose poll timed out reaches the
device as any other byte would, or is lost, by a free value of its own; the block is not touched.
The statement holds for every value of it (log 25). -/
def Obligations.DoubtfulByteIsTakenOrLost : Prop :=
  ∀ (s : State) (x : BusItem) (rest : List BusItem), s.bus = x.doubtful :: rest →
    let t := { s with device := { s.device with draws := s.device.draws + 1 } }
    step s =
      if Config.takesByte s.device.draws then step { t with bus := { x with sure := true } :: rest }
      else .next { t with bus := rest }

/-- Tier 1 (20_memory.md R58; the free values are the model's choice, log 14): which command bytes the
reference device gives no meaning, and that its whole state is unspecified after one of them while
the block is untouched. -/
def Obligations.CommandsWithoutMeaningLeaveTheDeviceUnspecified : Prop :=
  (∀ b : Byte, (∃ e, decodeCmd b = .error e) ↔
    b = 0 ∨ (0x10 ≤ b.toNat ∧ b.toNat < 0x20) ∨ (0x40 ≤ b.toNat ∧ b.toNat < 0x80)) ∧
  (∀ (s : State) (b : Byte) (rest : List BusItem) (e : DecodeError),
    s.bus = cmdItem b :: rest → decodeCmd b = .error e →
    step s = .next { s with
      bus := rest, device := Device.unspecified (s.device.draws + 1) })

/-! ## The machine -/

/-- Tier 1 (10_state.md R27; 70_reset_and_hazards.md R200): what reset leaves, for every piece of
state the rule gives a value.
That a step with nothing to do changes nothing is the model's (log 10). -/
def Obligations.ResetLeavesTheBlockUninitialized : Prop :=
  State.reset.inited = false ∧ State.reset.status = .ok ∧ State.reset.result = 0 ∧
  State.reset.pinRs = false ∧ State.reset.pinRw = false ∧ State.reset.pinE = false ∧
  State.reset.pinDb = .released ∧ State.reset.trace = [] ∧ State.reset.bus = [] ∧
  step State.reset = .next State.reset

/-- Tier 1 (10_state.md R11; 30_encoding.md R70; 20_memory.md R57): a step runs the decoded
instruction: the host's word when the device has nothing left to take, else the command byte the
device takes next; placing an instruction with `withFetchWord` makes it the one that runs.
The queues it takes from are the model's (logs 10, 12). -/
def Obligations.StepRunsTheDecodedInstruction : Prop :=
  (∀ (s : State) (w : OpWord) (rest : List Request) (i : Instr),
    s.bus = [] → s.host = .word w :: rest → decodeOp w = .ok i →
      step s = exec i { s with host := rest }) ∧
  (∀ (s : State) (b : Byte) (rest : List BusItem) (i : Instr),
    s.bus = cmdItem b :: rest → decodeCmd b = .ok i → step s = exec i { s with bus := rest }) ∧
  (∀ s : State, s.bus = [] → s.host = [] → step s = .next s) ∧
  (∀ (s : State) (w : OpWord) (i : Instr), decodeOp w = .ok i →
    step (s.withFetchWord 16 w.toNat) = exec i { s with bus := [] }) ∧
  (∀ (s : State) (b : Byte) (i : Instr), decodeCmd b = .ok i →
    step (s.withFetchWord 8 b.toNat) = exec i s)

/-- Tier 1, invariant: the machine is well formed right after reset. -/
def Obligations.ResetIsWellFormed : Prop := State.reset.Wf

/-- Tier 3, invariant (10_state.md R17, R19, R21, R22): every step from a well-formed state gives a
well-formed state: the cursor on the display, the pins at rest, the data pins as wide as the bus, a
legal reply, and DDRAM in canonical form. -/
def Obligations.EveryStepKeepsWellFormedness : Prop :=
  ∀ s t : State, s.Wf → step s = .next t → t.Wf

/-- Tier 2, noninterference (10_state.md R26; 20_memory.md R42): a host operation neither reads nor
writes the device's memory, counter, direction and display bits: with any other device the block
does the same. The busy answers it does read are no part of `Device` (log 8), and the bytes it sends
wait on the bus (log 12). -/
def Obligations.BlockIsIndependentOfTheDevice : Prop :=
  ∀ (i : Instr) (s t : State) (d : Device), i.isHostOp = true → exec i s = .next t →
    exec i { s with device := d } = .next { t with device := d }

/-- Tier 2, noninterference (70_reset_and_hazards.md R218): outside `INIT` the bit `MODE.TWO_LINE`
changes nothing the block does. -/
def Obligations.TwoLineBitHasNoOtherEffect : Prop :=
  ∀ (i : Instr) (s t : State), i.isHostOp = true → (∀ mode, i ≠ .init mode) → exec i s = .next t →
    exec i { s with mode := s.mode ^^^ 0x02 } = .next { t with mode := s.mode ^^^ 0x02 }

/-! ## Block and device together -/

/-- Tier 2 (70_reset_and_hazards.md R201, R213): with `ROW_BASE[0]` as the spec has it, `INIT` with an
increment mode brings block and device into agreement from every state, whatever the device held
and whatever was still on its way.
The device is PRESUMED (logs 12, 13). -/
def Obligations.InitBringsAgreement : Prop :=
  ∀ (mode : Byte) (s t : State), s.params.rowBase0 = 0 → mode.getLsbD 5 = true →
    exec (.init mode) s = .next t → t.Synced

/-- Tier 3, invariant (70_reset_and_hazards.md R213): from a state of agreement every host operation
but `XFER` that does not time out, and every step of the device, keeps the agreement; an `INIT` must
keep the increment direction.
The device is PRESUMED (logs 12, 13). -/
def Obligations.AgreementIsKept : Prop :=
  (∀ (i : Instr) (s t : State), s.params.rowBase0 = 0 → s.Synced → i.isHostOp = true →
    (∀ kind byte, i ≠ .xfer kind byte) → (∀ mode, i = .init mode → mode.getLsbD 5 = true) →
    exec i s = .next t → t.status ≠ .hardwareTimeout → t.Synced) ∧
  (∀ s t : State, s.Synced → s.bus ≠ [] → step s = .next t → t.Synced)

/-- Tier 2 (70_reset_and_hazards.md R213): the rule as it stands: after an `INIT` with an increment
mode and any run of operations other than `XFER` in which nothing times out, block and device agree.
The device is PRESUMED (logs 12, 13). -/
def Obligations.RunsAfterInitAgree : Prop :=
  ∀ (mode : Byte) (ops : List Instr) (s t : State), s.params.rowBase0 = 0 →
    mode.getLsbD 5 = true →
    (∀ i ∈ ops, i.isHostOp = true ∧ (∀ kind byte, i ≠ .xfer kind byte) ∧
      ∀ m, i = .init m → m.getLsbD 5 = true) →
    runOps (.init mode :: ops) s = some t → t.Synced

/-- Tier 2 (70_reset_and_hazards.md R213; 20_memory.md R52, R62): in a state of agreement the byte of
a `WRCH` that does not time out lands on the visible cell the cursor named when the operation
began, and no other cell changes.
The device is PRESUMED (logs 12, 13). -/
def Obligations.WrchLandsOnTheCursorCell : Prop :=
  ∀ (d : Byte) (s t : State), 1 ≤ s.params.pollLimit → s.params.Legal → s.Synced →
    exec (.wrch d) s = .next t → t.status = .ok →
    t.drained.cell s.curRow s.curCol.toNat = d ∧
    ∀ a : Address, a.toNat ≠ (rowBase s.params s.curRow).toNat + s.curCol.toNat →
      t.drained.device.ddram.read a = s.drained.device.ddram.read a

/-- Tier 2 (42_display_ops.md R158; 70_reset_and_hazards.md R213): in a state of agreement a
`CLEAR_ROW` that does not time out blanks the 24 cells of its row and no other cell, so it "does not
touch the other row".
The device and the blank are PRESUMED (logs 5, 12, 13). -/
def Obligations.ClearRowBlanksItsRowOnly : Prop :=
  ∀ (row : Nibble) (s t : State), 1 ≤ s.params.pollLimit → s.params.Legal → s.Synced →
    exec (.clearRow row) s = .next t → t.status = .ok →
    let r : BitVec 1 := if row = 1 then 1 else 0
    (∀ c < 24, t.drained.cell r c = 0x20) ∧ t.drained.row r = List.replicate 24 0x20 ∧
    (∀ a : Address, (∀ c < 24, a.toNat ≠ (rowBase s.params r).toNat + c) →
      t.drained.device.ddram.read a = s.drained.device.ddram.read a) ∧
    (∀ q, q ≠ r → t.drained.row q = s.drained.row q)

/-! ## Hazards -/

/-- Tier 2 (40_transport.md R114; 70_reset_and_hazards.md R210): `XFER` updates no belief, so a raw
display-control byte that does not time out and whose bit 2 differs from `PWR_ON` leaves the flag
stale, and the next `TOGGLE_POWER` sends the display bit the device already has: the device keeps
it, and the toggle changes at most the cursor and blink bits, to those of the mode.
The device is PRESUMED (logs 12, 13). -/
def Obligations.RawDisplayControlMakesTheFlagStale : Prop :=
  ∀ (on cursor blink : Bool) (s t : State), 1 ≤ s.params.pollLimit → s.inited = true →
    exec (.xfer .command (cmdDisplayByte on cursor blink)) s = .next t →
    t.pwrOn = s.pwrOn ∧ t.curCol = s.curCol ∧ t.curRow = s.curRow ∧ t.mode = s.mode ∧
    (t.status = .ok →
      t.drained.device = { s.drained.device with dispD := on, dispC := cursor, dispB := blink } ∧
      (t.StaleToggle ↔ on ≠ s.pwrOn) ∧
      (on ≠ s.pwrOn → ∀ u, exec .togglePower t = .next u →
        u.bus = t.bus ++
          [⟨.command, cmdDisplayByte on s.modeCursor s.modeBlink, u.status == .ok⟩] ∧
        u.drained.device.dispD = on ∧
        (u.status = .ok → u.drained.device =
          { t.drained.device with dispC := s.modeCursor, dispB := s.modeBlink })))

/-- Tier 2 (60_exceptions.md R184, R190): a `TOGGLE_POWER` that times out has flipped the flag, and
the device has the new display bit or still its old one, as it took the byte or not. So a flag that
was right is stale afterwards exactly when the byte was lost. Whether it was is a free value; the
statement holds for every value of it (log 25). The device is PRESUMED (logs 12, 13). -/
def Obligations.TimedOutToggleMayLeaveTheFlagStale : Prop :=
  ∀ (s t : State), s.inited = true → exec .togglePower s = .next t →
    t.status = .hardwareTimeout →
    t.pwrOn = (!s.pwrOn) ∧
    t.drained.device.dispD =
      (if Config.takesByte s.drained.device.draws then t.pwrOn else s.drained.device.dispD) ∧
    (t.StaleToggle ↔ ¬ s.StaleToggle ∧ Config.takesByte s.drained.device.draws = false)

/-- Tier 2 (70_reset_and_hazards.md R211): a raw set-DDRAM-address that does not time out moves the
device's counter and not the cursor, and a positioning operation that does not time out brings the
two back together.
The device is PRESUMED (logs 12, 13). -/
def Obligations.RawAddressMovesOnlyTheDevice : Prop :=
  ∀ (a : Address) (s t : State), 1 ≤ s.params.pollLimit → s.inited = true →
    exec (.xfer .command (cmdSetDdramByte a)) s = .next t →
    t.curCol = s.curCol ∧ t.curRow = s.curRow ∧
    (t.status = .ok → t.drained.device = { s.drained.device with ac := a }) ∧
    ∀ (col : Byte) (row : Nibble) (u : State), col.toNat < 24 →
      exec (.moveTo col row) t = .next u → u.status = .ok →
        u.drained.device.ac = u.cursorAddress

/-- Tier 2 (70_reset_and_hazards.md R212): with the device stepping down, one `WRCH` from a cursor the
device agrees with leaves the two apart by two, because the tracked column always increments.
The device is PRESUMED (logs 12, 13). -/
def Obligations.DecrementDirectionSeparatesTheCursor : Prop :=
  ∀ (d : Byte) (s t : State), 1 ≤ s.params.pollLimit → s.inited = true → s.curCol.toNat ≤ 22 →
    s.drained.device.dir = .dec → s.drained.device.ac = s.cursorAddress →
    exec (.wrch d) s = .next t → t.status = .ok →
    t.curCol = s.curCol + 1 ∧ t.drained.device.ac = s.cursorAddress - 1 ∧
    t.cursorAddress = s.cursorAddress + 1

/-- Tier 2 (30_encoding.md R85): the named operations send only the five commands clear,
entry-mode-set, display-control, function-set and set-DDRAM-address, with the field values of their
builders, and data bytes.
The byte values are PRESUMED (log 5). -/
def Obligations.NamedOperationsSendFiveCommands : Prop :=
  ∀ (i : Instr) (s t : State), i.isHostOp = true → (∀ kind byte, i ≠ .xfer kind byte) →
    exec i s = .next t → ∃ new, t.bus = s.bus ++ new ∧ ∀ x ∈ new, x.emittable = true

/-- Tier 2 (70_reset_and_hazards.md R225): the least blocking time of every operation in a fixed-delay
mode, as the sum of the floors of the delays it adds to the trace, and of `INIT` in every mode. -/
def Obligations.LeastBlockingTimes : Prop :=
  ∀ (i : Instr) (s t : State), i.isHostOp = true → s.CursorInRange → exec i s = .next t →
    s.params.tShort = 43 → s.params.tLong = 1500 →
    (∀ mode, i = .init mode →
      leastTime s.params (t.trace.drop s.trace.length) = s.params.tPwr + 1629) ∧
    ((∀ mode, i ≠ .init mode) → s.inited = true → s.modePoll = false →
      leastTime s.params (t.trace.drop s.trace.length) =
        match i with
        | .init _ => 0
        | .wrch _ => if s.curCol.toNat ≤ 22 then 43 else 86
        | .moveTo col _ => if col.toNat < 24 then 43 else 0
        | .homeTop | .homeBot | .togglePower => 43
        | .clearAll => 1500
        | .clearRow _ => 1161
        | .remain => 0
        | .xfer kind byte =>
          if kind = .command ∧ (byte = 0x01 ∨ byte = 0x02 ∨ byte = 0x03) then 1500 else 43
        | .cmdClear | .cmdHome _ | .cmdEntry _ _ | .cmdDisplay _ _ _ | .cmdFunction _ _ _ _
        | .cmdSetDdram _ => 0) ∧
    ((∀ mode, i ≠ .init mode) → s.inited = false ∨ s.modePoll = true →
      leastTime s.params (t.trace.drop s.trace.length) = 0)
end

