-- ==== Sys2Proof/Laws/Decode.lean ====
section
/-! SUPPORT. The fields of an operation word and the word of its fields (30_encoding.md R71), and
what a must-be-zero check lets through. -/

namespace Sys2Proof

theorem opField_opWord (op row : Nibble) (imm : Byte) : opField (opWord op row imm) = op := by
  apply BitVec.eq_of_getLsbD_eq
  intro i hi
  simp only [opField, opWord]
  interval_cases i <;> simp

theorem rowField_opWord (op row : Nibble) (imm : Byte) : rowField (opWord op row imm) = row := by
  apply BitVec.eq_of_getLsbD_eq
  intro i hi
  simp only [rowField, opWord]
  interval_cases i <;> simp

theorem immField_opWord (op row : Nibble) (imm : Byte) : immField (opWord op row imm) = imm := by
  apply BitVec.eq_of_getLsbD_eq
  intro i hi
  simp only [immField, opWord]
  interval_cases i <;> simp

/-- The three fields are the whole word. -/
theorem opWord_fields (w : OpWord) : opWord (opField w) (rowField w) (immField w) = w := by
  apply BitVec.eq_of_getLsbD_eq
  intro i hi
  simp only [opField, rowField, immField, opWord]
  interval_cases i <;> simp

theorem opField_of {w : OpWord} {n : Nat} (h : (opField w).toNat = n) :
    opField w = BitVec.ofNat 4 n := by
  apply BitVec.eq_of_toNat_eq
  rw [h, BitVec.toNat_ofNat]
  have := (opField w).isLt
  omega

theorem needZero_ok {zero : Bool} {i j : Instr} :
    needZero zero i = .ok j ↔ zero = true ∧ i = j := by
  cases zero <;> simp [needZero]

theorem needZero_error {zero : Bool} {i : Instr} {e : DecodeError} :
    needZero zero i = .error e ↔ zero = false ∧ e = .nonzeroField := by
  cases zero <;> simp [needZero, eq_comm]

theorem Kind.level_ofLevel (b : Bool) : (Kind.ofLevel b).level = b := by cases b <;> rfl

theorem Kind.ofLevel_level (k : Kind) : Kind.ofLevel k.level = k := by cases k <;> rfl

end Sys2Proof
end

