-- ==== Sys2Proof/Laws/State.lean ====
section
/-! SUPPORT. One lemma per field per update of the state, each true by unfolding; the fields an
update writes and the fields it leaves alone. -/

namespace Sys2Proof.Machine

section
variable (s : State) (ev : Event)

@[simp] theorem State.emit_inited : (s.emit ev).inited = s.inited := rfl
@[simp] theorem State.emit_pwrOn : (s.emit ev).pwrOn = s.pwrOn := rfl
@[simp] theorem State.emit_curCol : (s.emit ev).curCol = s.curCol := rfl
@[simp] theorem State.emit_curRow : (s.emit ev).curRow = s.curRow := rfl
@[simp] theorem State.emit_mode : (s.emit ev).mode = s.mode := rfl
@[simp] theorem State.emit_status : (s.emit ev).status = s.status := rfl
@[simp] theorem State.emit_result : (s.emit ev).result = s.result := rfl
@[simp] theorem State.emit_pinRs : (s.emit ev).pinRs = s.pinRs := rfl
@[simp] theorem State.emit_pinRw : (s.emit ev).pinRw = s.pinRw := rfl
@[simp] theorem State.emit_pinE : (s.emit ev).pinE = s.pinE := rfl
@[simp] theorem State.emit_pinDb : (s.emit ev).pinDb = s.pinDb := rfl
@[simp] theorem State.emit_trace : (s.emit ev).trace = s.trace ++ [ev] := rfl
@[simp] theorem State.emit_host : (s.emit ev).host = s.host := rfl
@[simp] theorem State.emit_answers : (s.emit ev).answers = s.answers := rfl
@[simp] theorem State.emit_bus : (s.emit ev).bus = s.bus := rfl
@[simp] theorem State.emit_device : (s.emit ev).device = s.device := rfl
@[simp] theorem State.emit_params : (s.emit ev).params = s.params := rfl
@[simp] theorem State.emit_draws : (s.emit ev).draws = s.draws := rfl

end

section
variable (s : State) (k : Kind) (b : Byte) (sure : Bool)

@[simp] theorem State.toBus_inited : (s.toBus k b sure).inited = s.inited := rfl
@[simp] theorem State.toBus_pwrOn : (s.toBus k b sure).pwrOn = s.pwrOn := rfl
@[simp] theorem State.toBus_curCol : (s.toBus k b sure).curCol = s.curCol := rfl
@[simp] theorem State.toBus_curRow : (s.toBus k b sure).curRow = s.curRow := rfl
@[simp] theorem State.toBus_mode : (s.toBus k b sure).mode = s.mode := rfl
@[simp] theorem State.toBus_status : (s.toBus k b sure).status = s.status := rfl
@[simp] theorem State.toBus_result : (s.toBus k b sure).result = s.result := rfl
@[simp] theorem State.toBus_pinRs : (s.toBus k b sure).pinRs = s.pinRs := rfl
@[simp] theorem State.toBus_pinRw : (s.toBus k b sure).pinRw = s.pinRw := rfl
@[simp] theorem State.toBus_pinE : (s.toBus k b sure).pinE = s.pinE := rfl
@[simp] theorem State.toBus_pinDb : (s.toBus k b sure).pinDb = s.pinDb := rfl
@[simp] theorem State.toBus_trace : (s.toBus k b sure).trace = s.trace := rfl
@[simp] theorem State.toBus_host : (s.toBus k b sure).host = s.host := rfl
@[simp] theorem State.toBus_answers : (s.toBus k b sure).answers = s.answers := rfl
@[simp] theorem State.toBus_bus : (s.toBus k b sure).bus = s.bus ++ [⟨k, b, sure⟩] := rfl
@[simp] theorem State.toBus_device : (s.toBus k b sure).device = s.device := rfl
@[simp] theorem State.toBus_params : (s.toBus k b sure).params = s.params := rfl
@[simp] theorem State.toBus_draws : (s.toBus k b sure).draws = s.draws := rfl

end

section
variable (s : State) (c : BitVec 5) (r : BitVec 1)

@[simp] theorem State.setCursor_inited : (s.setCursor c r).inited = s.inited := rfl
@[simp] theorem State.setCursor_pwrOn : (s.setCursor c r).pwrOn = s.pwrOn := rfl
@[simp] theorem State.setCursor_curCol : (s.setCursor c r).curCol = c := rfl
@[simp] theorem State.setCursor_curRow : (s.setCursor c r).curRow = r := rfl
@[simp] theorem State.setCursor_mode : (s.setCursor c r).mode = s.mode := rfl
@[simp] theorem State.setCursor_status : (s.setCursor c r).status = s.status := rfl
@[simp] theorem State.setCursor_result : (s.setCursor c r).result = s.result := rfl
@[simp] theorem State.setCursor_pinRs : (s.setCursor c r).pinRs = s.pinRs := rfl
@[simp] theorem State.setCursor_pinRw : (s.setCursor c r).pinRw = s.pinRw := rfl
@[simp] theorem State.setCursor_pinE : (s.setCursor c r).pinE = s.pinE := rfl
@[simp] theorem State.setCursor_pinDb : (s.setCursor c r).pinDb = s.pinDb := rfl
@[simp] theorem State.setCursor_trace : (s.setCursor c r).trace = s.trace := rfl
@[simp] theorem State.setCursor_host : (s.setCursor c r).host = s.host := rfl
@[simp] theorem State.setCursor_answers : (s.setCursor c r).answers = s.answers := rfl
@[simp] theorem State.setCursor_bus : (s.setCursor c r).bus = s.bus := rfl
@[simp] theorem State.setCursor_device : (s.setCursor c r).device = s.device := rfl
@[simp] theorem State.setCursor_params : (s.setCursor c r).params = s.params := rfl
@[simp] theorem State.setCursor_draws : (s.setCursor c r).draws = s.draws := rfl

end

section
variable (v : Byte) (s : State)

@[simp] theorem complete_inited : (complete v s).inited = s.inited := rfl
@[simp] theorem complete_pwrOn : (complete v s).pwrOn = s.pwrOn := rfl
@[simp] theorem complete_curCol : (complete v s).curCol = s.curCol := rfl
@[simp] theorem complete_curRow : (complete v s).curRow = s.curRow := rfl
@[simp] theorem complete_mode : (complete v s).mode = s.mode := rfl
@[simp] theorem complete_status : (complete v s).status = .ok := rfl
@[simp] theorem complete_result : (complete v s).result = v := rfl
@[simp] theorem complete_pinRs : (complete v s).pinRs = s.pinRs := rfl
@[simp] theorem complete_pinRw : (complete v s).pinRw = s.pinRw := rfl
@[simp] theorem complete_pinE : (complete v s).pinE = s.pinE := rfl
@[simp] theorem complete_pinDb : (complete v s).pinDb = s.pinDb := rfl
@[simp] theorem complete_trace : (complete v s).trace = s.trace := rfl
@[simp] theorem complete_host : (complete v s).host = s.host := rfl
@[simp] theorem complete_answers : (complete v s).answers = s.answers := rfl
@[simp] theorem complete_bus : (complete v s).bus = s.bus := rfl
@[simp] theorem complete_device : (complete v s).device = s.device := rfl
@[simp] theorem complete_params : (complete v s).params = s.params := rfl
@[simp] theorem complete_draws : (complete v s).draws = s.draws := rfl

end

section
variable (err : Status) (s : State)

@[simp] theorem raise_inited : (raise err s).inited = s.inited := rfl
@[simp] theorem raise_pwrOn : (raise err s).pwrOn = s.pwrOn := rfl
@[simp] theorem raise_curCol : (raise err s).curCol = s.curCol := rfl
@[simp] theorem raise_curRow : (raise err s).curRow = s.curRow := rfl
@[simp] theorem raise_mode : (raise err s).mode = s.mode := rfl
@[simp] theorem raise_status : (raise err s).status = err := rfl
@[simp] theorem raise_result : (raise err s).result = 0 := rfl
@[simp] theorem raise_pinRs : (raise err s).pinRs = s.pinRs := rfl
@[simp] theorem raise_pinRw : (raise err s).pinRw = s.pinRw := rfl
@[simp] theorem raise_pinE : (raise err s).pinE = s.pinE := rfl
@[simp] theorem raise_pinDb : (raise err s).pinDb = s.pinDb := rfl
@[simp] theorem raise_trace : (raise err s).trace = s.trace := rfl
@[simp] theorem raise_host : (raise err s).host = s.host := rfl
@[simp] theorem raise_answers : (raise err s).answers = s.answers := rfl
@[simp] theorem raise_bus : (raise err s).bus = s.bus := rfl
@[simp] theorem raise_device : (raise err s).device = s.device := rfl
@[simp] theorem raise_params : (raise err s).params = s.params := rfl
@[simp] theorem raise_draws : (raise err s).draws = s.draws := rfl

end

section
variable (s : State) (d : Device)

@[simp] theorem State.setDevice_inited : (s.setDevice d).inited = s.inited := rfl
@[simp] theorem State.setDevice_pwrOn : (s.setDevice d).pwrOn = s.pwrOn := rfl
@[simp] theorem State.setDevice_curCol : (s.setDevice d).curCol = s.curCol := rfl
@[simp] theorem State.setDevice_curRow : (s.setDevice d).curRow = s.curRow := rfl
@[simp] theorem State.setDevice_mode : (s.setDevice d).mode = s.mode := rfl
@[simp] theorem State.setDevice_status : (s.setDevice d).status = s.status := rfl
@[simp] theorem State.setDevice_result : (s.setDevice d).result = s.result := rfl
@[simp] theorem State.setDevice_pinRs : (s.setDevice d).pinRs = s.pinRs := rfl
@[simp] theorem State.setDevice_pinRw : (s.setDevice d).pinRw = s.pinRw := rfl
@[simp] theorem State.setDevice_pinE : (s.setDevice d).pinE = s.pinE := rfl
@[simp] theorem State.setDevice_pinDb : (s.setDevice d).pinDb = s.pinDb := rfl
@[simp] theorem State.setDevice_trace : (s.setDevice d).trace = s.trace := rfl
@[simp] theorem State.setDevice_host : (s.setDevice d).host = s.host := rfl
@[simp] theorem State.setDevice_answers : (s.setDevice d).answers = s.answers := rfl
@[simp] theorem State.setDevice_bus : (s.setDevice d).bus = s.bus := rfl
@[simp] theorem State.setDevice_device : (s.setDevice d).device = d := rfl
@[simp] theorem State.setDevice_params : (s.setDevice d).params = s.params := rfl
@[simp] theorem State.setDevice_draws : (s.setDevice d).draws = s.draws := rfl

end

section
variable (s : State)

@[simp] theorem State.deviceUnspecified_inited : s.deviceUnspecified.inited = s.inited := rfl
@[simp] theorem State.deviceUnspecified_pwrOn : s.deviceUnspecified.pwrOn = s.pwrOn := rfl
@[simp] theorem State.deviceUnspecified_curCol : s.deviceUnspecified.curCol = s.curCol := rfl
@[simp] theorem State.deviceUnspecified_curRow : s.deviceUnspecified.curRow = s.curRow := rfl
@[simp] theorem State.deviceUnspecified_mode : s.deviceUnspecified.mode = s.mode := rfl
@[simp] theorem State.deviceUnspecified_status : s.deviceUnspecified.status = s.status := rfl
@[simp] theorem State.deviceUnspecified_result : s.deviceUnspecified.result = s.result := rfl
@[simp] theorem State.deviceUnspecified_pinRs : s.deviceUnspecified.pinRs = s.pinRs := rfl
@[simp] theorem State.deviceUnspecified_pinRw : s.deviceUnspecified.pinRw = s.pinRw := rfl
@[simp] theorem State.deviceUnspecified_pinE : s.deviceUnspecified.pinE = s.pinE := rfl
@[simp] theorem State.deviceUnspecified_pinDb : s.deviceUnspecified.pinDb = s.pinDb := rfl
@[simp] theorem State.deviceUnspecified_trace : s.deviceUnspecified.trace = s.trace := rfl
@[simp] theorem State.deviceUnspecified_host : s.deviceUnspecified.host = s.host := rfl
@[simp] theorem State.deviceUnspecified_answers : s.deviceUnspecified.answers = s.answers := rfl
@[simp] theorem State.deviceUnspecified_bus : s.deviceUnspecified.bus = s.bus := rfl
@[simp] theorem State.deviceUnspecified_device :
    s.deviceUnspecified.device = Device.unspecified (s.device.draws + 1) := rfl
@[simp] theorem State.deviceUnspecified_params : s.deviceUnspecified.params = s.params := rfl
@[simp] theorem State.deviceUnspecified_draws : s.deviceUnspecified.draws = s.draws := rfl

end

section
variable (s : State)

@[simp] theorem State.deviceDraw_inited : s.deviceDraw.inited = s.inited := rfl
@[simp] theorem State.deviceDraw_pwrOn : s.deviceDraw.pwrOn = s.pwrOn := rfl
@[simp] theorem State.deviceDraw_curCol : s.deviceDraw.curCol = s.curCol := rfl
@[simp] theorem State.deviceDraw_curRow : s.deviceDraw.curRow = s.curRow := rfl
@[simp] theorem State.deviceDraw_mode : s.deviceDraw.mode = s.mode := rfl
@[simp] theorem State.deviceDraw_status : s.deviceDraw.status = s.status := rfl
@[simp] theorem State.deviceDraw_result : s.deviceDraw.result = s.result := rfl
@[simp] theorem State.deviceDraw_pinRs : s.deviceDraw.pinRs = s.pinRs := rfl
@[simp] theorem State.deviceDraw_pinRw : s.deviceDraw.pinRw = s.pinRw := rfl
@[simp] theorem State.deviceDraw_pinE : s.deviceDraw.pinE = s.pinE := rfl
@[simp] theorem State.deviceDraw_pinDb : s.deviceDraw.pinDb = s.pinDb := rfl
@[simp] theorem State.deviceDraw_trace : s.deviceDraw.trace = s.trace := rfl
@[simp] theorem State.deviceDraw_host : s.deviceDraw.host = s.host := rfl
@[simp] theorem State.deviceDraw_answers : s.deviceDraw.answers = s.answers := rfl
@[simp] theorem State.deviceDraw_bus : s.deviceDraw.bus = s.bus := rfl
@[simp] theorem State.deviceDraw_device :
    s.deviceDraw.device = { s.device with draws := s.device.draws + 1 } := rfl
@[simp] theorem State.deviceDraw_params : s.deviceDraw.params = s.params := rfl
@[simp] theorem State.deviceDraw_draws : s.deviceDraw.draws = s.draws := rfl

end

end Sys2Proof.Machine
end

