-- ==== Sys2Proof/Laws/Transfer.lean ====
section
/-! SUPPORT. What one transfer can do (40_transport.md R100 to R108), said once: the strobe, a busy
read, the poll, the handshake, and the frame of the whole. -/

namespace Sys2Proof.Machine

/-- What strobing a byte does (R100 to R102). -/
theorem strobe_eq (kind : Kind) (byte : Byte) (s : State) :
    s.strobe kind byte =
      { s with
        pinRs := kind.level, pinRw := false, pinE := false,
        pinDb := pinsAfterWrite s.modeBus8 byte,
        trace := s.trace ++ writeEvents s.modeBus8 kind byte } := by
  cases h : s.mode[0] <;>
    simp [State.strobe, State.putByte, State.put8, State.put4, State.driveRw, State.driveRs,
      State.driveE, State.driveDb8, State.driveDb4, State.emit, State.modeBus8,
      pinsAfterWrite, writeEvents, h]

/-- The state after a busy read answered `busy`, apart from where the answer came from (R106). -/
def afterRead (busy : Bool) (s : State) : State :=
  { s with
    pinRs := false, pinRw := false, pinE := false, pinDb := .released,
    trace := s.trace ++ readEvents s.modeBus8 busy }

/-- A busy read takes the next listed answer (R106, R107). -/
theorem busyRead_listed {s : State} {busy : Bool} {rest : List Bool}
    (h : s.answers = busy :: rest) :
    s.busyRead = (busy, { afterRead busy s with answers := rest }) := by
  cases hm : s.mode[0] <;>
    simp [State.busyRead, State.sampleDb7, State.releaseDb, State.driveRw, State.driveRs,
      State.driveE, State.emit, State.lowNibblePulse, State.modeBus8, afterRead, readEvents, h, hm]

/-- A busy read with no listed answer takes a free value (R107). -/
theorem busyRead_free {s : State} (h : s.answers = []) :
    s.busyRead = (Config.busyAnswer s.draws,
      { afterRead (Config.busyAnswer s.draws) s with draws := s.draws + 1 }) := by
  cases hm : s.mode[0] <;>
    simp [State.busyRead, State.sampleDb7, State.releaseDb, State.driveRw, State.driveRs,
      State.driveE, State.emit, State.lowNibblePulse, State.modeBus8, afterRead, readEvents, h, hm]

/-- Everything a busy read can do. -/
theorem busyRead_spec (s : State) :
    ∃ ans d, s.busyRead.2 = { afterRead s.busyRead.1 s with answers := ans, draws := d } := by
  cases h : s.answers with
  | nil => exact ⟨s.answers, s.draws + 1, by rw [busyRead_free h]; rfl⟩
  | cons b rest => exact ⟨rest, s.draws, by rw [busyRead_listed h]; rfl⟩

/-- The answers of a handshake that ended as it did, with at most `n` reads (R105): the last one is
ready, or all `n` are busy. -/
def PollRun (n : Nat) (r : TransferEnd) (bs : List Bool) : Prop :=
  match r with
  | .ok => ∃ k, k < n ∧ bs = List.replicate k true ++ [false]
  | .timeout => bs = List.replicate n true

/-- Everything a poll can do (R105): it makes the reads of a `PollRun` and touches nothing but the
pins, the trace and the source of the answers. -/
theorem poll_spec (n : Nat) (s : State) :
    ∃ bs ans d, PollRun n (poll n s).1 bs ∧
      (poll n s).2 =
        { s with
          pinRs := if bs = [] then s.pinRs else false
          pinRw := if bs = [] then s.pinRw else false
          pinE := if bs = [] then s.pinE else false
          pinDb := if bs = [] then s.pinDb else .released
          trace := s.trace ++ pollEvents s.modeBus8 bs
          answers := ans, draws := d } := by
  induction n generalizing s with
  | zero => exact ⟨[], s.answers, s.draws, rfl, by simp [poll, pollEvents]⟩
  | succ n ih =>
    obtain ⟨ans, d, hr⟩ := busyRead_spec s
    cases hb : s.busyRead.1 with
    | false =>
      refine ⟨[false], ans, d, ?_, ?_⟩
      · simp only [poll, hb]
        exact ⟨0, by omega, rfl⟩
      · simp [poll, hb, hr, afterRead, pollEvents]
    | true =>
      obtain ⟨bs, ans', d', hrun, hst⟩ := ih s.busyRead.2
      have hp : poll (n + 1) s = poll n s.busyRead.2 := by simp [poll, hb]
      refine ⟨true :: bs, ans', d', ?_, ?_⟩
      · rw [hp]
        cases hend : (poll n s.busyRead.2).1 with
        | ok =>
          rw [hend] at hrun
          obtain ⟨k, hk, rfl⟩ := hrun
          exact ⟨k + 1, by omega, by simp [List.replicate_succ]⟩
        | timeout =>
          rw [hend] at hrun
          simp only [PollRun] at hrun ⊢
          simp [List.replicate_succ, hrun]
      · rw [hp, hst, hr]
        simp [afterRead, pollEvents, State.modeBus8, hb]

/-- The events of the wait after a byte (R104, R105). -/
def waitEvents (s : State) (c : DelayClass) (fixed : Bool) (bs : List Bool) : List Event :=
  if fixed || !s.modePoll then [.dly c] else pollEvents s.modeBus8 bs

/-- A transfer that waits by fixed delay (R100, R104). -/
theorem transfer_fixed {kind : Kind} {byte : Byte} {fixed : Bool} {s : State}
    (h : (fixed || !s.modePoll) = true) :
    transfer kind byte fixed s =
      (.ok, ((s.strobe kind byte).delay (classOf kind byte)).toBus kind byte true) := by
  have h' : (fixed || !(s.strobe kind byte).modePoll) = true := by rw [strobe_eq]; exact h
  simp only [transfer, handshake, h', if_true]
  rfl

/-- A transfer that polls (R100, R104); the byte is in doubt where the poll times out (R115). -/
theorem transfer_polled {kind : Kind} {byte : Byte} {fixed : Bool} {s : State}
    (h : (fixed || !s.modePoll) = false) :
    transfer kind byte fixed s =
      ((poll s.params.pollLimit (s.strobe kind byte)).1,
        (poll s.params.pollLimit (s.strobe kind byte)).2.toBus kind byte
          ((poll s.params.pollLimit (s.strobe kind byte)).1 == .ok)) := by
  have h' : (fixed || !(s.strobe kind byte).modePoll) = false := by rw [strobe_eq]; exact h
  have hp : (s.strobe kind byte).params = s.params := by rw [strobe_eq]
  simp only [transfer, handshake, h', hp, Bool.false_eq_true, if_false]

/-- Everything a transfer can do (R100 to R105). -/
theorem transfer_spec (kind : Kind) (byte : Byte) (fixed : Bool) (s : State) :
    ∃ bs ans d, (fixed = false ∧ s.modePoll = true → PollRun s.params.pollLimit
        (transfer kind byte fixed s).1 bs) ∧
      (fixed = true ∨ s.modePoll = false → (transfer kind byte fixed s).1 = .ok ∧ bs = []) ∧
      (transfer kind byte fixed s).2 =
        { s with
          pinRs := if bs = [] then kind.level else false
          pinRw := false
          pinE := false
          pinDb := if bs = [] then pinsAfterWrite s.modeBus8 byte else .released
          trace := s.trace ++ writeEvents s.modeBus8 kind byte ++
            waitEvents s (classOf kind byte) fixed bs
          bus := s.bus ++ [⟨kind, byte, (transfer kind byte fixed s).1 == .ok⟩]
          answers := ans, draws := d } := by
  cases hf : (fixed || !s.modePoll) with
  | true =>
    refine ⟨[], s.answers, s.draws, ?_, ?_, ?_⟩
    · rintro ⟨h1, h2⟩
      simp [h1, h2] at hf
    · intro _
      simp [transfer_fixed hf]
    · simp [transfer_fixed hf, waitEvents, hf, strobe_eq, State.delay, State.emit, State.toBus]
  | false =>
    obtain ⟨bs, ans, d, hrun, hst⟩ := poll_spec s.params.pollLimit (s.strobe kind byte)
    refine ⟨bs, ans, d, ?_, ?_, ?_⟩
    · intro _
      rw [transfer_polled hf]
      exact hrun
    · intro h
      rcases h with h | h <;> simp [h] at hf
    · simp only [transfer_polled hf]
      rw [hst, strobe_eq]
      simp [waitEvents, hf, State.modeBus8, State.toBus]

section
variable (kind : Kind) (byte : Byte) (fixed : Bool) (s : State)

/-! A transfer writes the pins, the trace and the bus and nothing else (R100). -/

@[simp] theorem transfer_inited : (transfer kind byte fixed s).2.inited = s.inited := by
  obtain ⟨bs, ans, d, -, -, h⟩ := transfer_spec kind byte fixed s; rw [h]

@[simp] theorem transfer_pwrOn : (transfer kind byte fixed s).2.pwrOn = s.pwrOn := by
  obtain ⟨bs, ans, d, -, -, h⟩ := transfer_spec kind byte fixed s; rw [h]

@[simp] theorem transfer_curCol : (transfer kind byte fixed s).2.curCol = s.curCol := by
  obtain ⟨bs, ans, d, -, -, h⟩ := transfer_spec kind byte fixed s; rw [h]

@[simp] theorem transfer_curRow : (transfer kind byte fixed s).2.curRow = s.curRow := by
  obtain ⟨bs, ans, d, -, -, h⟩ := transfer_spec kind byte fixed s; rw [h]

@[simp] theorem transfer_mode : (transfer kind byte fixed s).2.mode = s.mode := by
  obtain ⟨bs, ans, d, -, -, h⟩ := transfer_spec kind byte fixed s; rw [h]

@[simp] theorem transfer_status : (transfer kind byte fixed s).2.status = s.status := by
  obtain ⟨bs, ans, d, -, -, h⟩ := transfer_spec kind byte fixed s; rw [h]

@[simp] theorem transfer_result : (transfer kind byte fixed s).2.result = s.result := by
  obtain ⟨bs, ans, d, -, -, h⟩ := transfer_spec kind byte fixed s; rw [h]

@[simp] theorem transfer_pinRw : (transfer kind byte fixed s).2.pinRw = false := by
  obtain ⟨bs, ans, d, -, -, h⟩ := transfer_spec kind byte fixed s; rw [h]

@[simp] theorem transfer_pinE : (transfer kind byte fixed s).2.pinE = false := by
  obtain ⟨bs, ans, d, -, -, h⟩ := transfer_spec kind byte fixed s; rw [h]

@[simp] theorem transfer_host : (transfer kind byte fixed s).2.host = s.host := by
  obtain ⟨bs, ans, d, -, -, h⟩ := transfer_spec kind byte fixed s; rw [h]

@[simp] theorem transfer_bus :
    (transfer kind byte fixed s).2.bus =
      s.bus ++ [⟨kind, byte, (transfer kind byte fixed s).1 == .ok⟩] := by
  obtain ⟨bs, ans, d, -, -, h⟩ := transfer_spec kind byte fixed s; rw [h]

@[simp] theorem transfer_device : (transfer kind byte fixed s).2.device = s.device := by
  obtain ⟨bs, ans, d, -, -, h⟩ := transfer_spec kind byte fixed s; rw [h]

@[simp] theorem transfer_params : (transfer kind byte fixed s).2.params = s.params := by
  obtain ⟨bs, ans, d, -, -, h⟩ := transfer_spec kind byte fixed s; rw [h]

/-- A fixed delay cannot time out (R115). -/
theorem transfer_fixed_ok (h : fixed = true ∨ s.modePoll = false) :
    (transfer kind byte fixed s).1 = .ok := by
  obtain ⟨bs, ans, d, -, hok, -⟩ := transfer_spec kind byte fixed s
  exact (hok h).1

/-- The data pins after a transfer are released or as wide as the bus (10_state.md R21, R22). -/
theorem transfer_pins :
    (transfer kind byte fixed s).2.pinDb.fits s.modeBus8 = true ∧
      ((transfer kind byte fixed s).2.pinDb = .released →
        (transfer kind byte fixed s).2.pinRs = false) := by
  obtain ⟨bs, ans, d, -, -, h⟩ := transfer_spec kind byte fixed s
  rw [h]
  by_cases hb : bs = [] <;> cases s.modeBus8 <;> simp [hb, pinsAfterWrite, DataPins.fits]

end

end Sys2Proof.Machine
end

