-- ==== Sys2Proof/Laws/Flow.lean ====
section
/-! SUPPORT. What an operation is made of, said once: every host operation but INIT is a chain of
transfers and cursor writes (and TOGGLE_POWER's flip) that ends by writing STATUS and RESULT. A
relation between states that each of these parts keeps is therefore kept by the whole operation. -/

namespace Sys2Proof.Machine

/-- The state a flow has reached. -/
def Flow.state : Flow → State
  | .on s => s
  | .raised _ s => s

@[simp] theorem Flow.state_on (s : State) : (Flow.on s).state = s := rfl

@[simp] theorem Flow.state_raised (err : Status) (s : State) : (Flow.raised err s).state = s := rfl

/-- The end of an operation writes `STATUS` and `RESULT` and nothing else, and a zero. -/
theorem Flow.finish_eq (f : Flow) :
    ∃ st, f.finish = { f.state with status := st, result := 0 } := by
  cases f with
  | on s => exact ⟨.ok, rfl⟩
  | raised err s => exact ⟨err, rfl⟩

/-! ## Which errors a part can raise (60_exceptions.md R181, R182) -/

theorem andThen_on {f : Flow} {k : State → Flow} {u : State} (h : f.andThen k = .on u) :
    ∃ v, f = .on v ∧ k v = .on u := by
  cases f with
  | on v => exact ⟨v, rfl, h⟩
  | raised err v => cases h

theorem andThen_raised {f : Flow} {k : State → Flow} {err : Status} {u : State}
    (h : f.andThen k = .raised err u) :
    f = .raised err u ∨ ∃ v, f = .on v ∧ k v = .raised err u := by
  cases f with
  | on v => exact .inr ⟨v, rfl, h⟩
  | raised err' v => exact .inl h

theorem tryTransfer_on {k : Kind} {b : Byte} {s u : State} (h : tryTransfer k b s = .on u) :
    u = (transfer k b false s).2 := by
  unfold tryTransfer at h
  split at h <;> cases h
  rfl

theorem tryTransfer_raised {k : Kind} {b : Byte} {s u : State} {err : Status}
    (h : tryTransfer k b s = .raised err u) :
    err = .hardwareTimeout ∧ u = (transfer k b false s).2 := by
  unfold tryTransfer at h
  split at h <;> cases h
  exact ⟨rfl, rfl⟩

theorem moveTo_raised {col : Byte} {row : Nibble} {s u : State} {err : Status}
    (h : moveTo col row s = .raised err u) :
    err = .hardwareTimeout ∨ (err = .invalidPosition ∧ u = s ∧ 24 ≤ col.toNat) := by
  unfold moveTo at h
  split at h
  · cases h
    exact .inr ⟨rfl, rfl, by assumption⟩
  · exact .inl (tryTransfer_raised h).1

theorem advanceAfterWrite_raised {s u : State} {err : Status}
    (h : advanceAfterWrite s = .raised err u) : err = .hardwareTimeout := by
  unfold advanceAfterWrite at h
  split at h
  · cases h
  · split at h
    · rcases moveTo_raised h with h | ⟨-, -, h⟩
      · exact h
      · simp at h
    · rcases moveTo_raised h with h | ⟨-, -, h⟩
      · exact h
      · simp [lastColOperand] at h

theorem writeSpaces_raised {n : Nat} {s u : State} {err : Status}
    (h : writeSpaces n s = .raised err u) : err = .hardwareTimeout := by
  induction n generalizing s with
  | zero => cases h
  | succ n ih =>
    rcases andThen_raised h with h | ⟨v, -, h⟩
    · rcases andThen_raised h with h | ⟨v, -, h⟩
      · exact (tryTransfer_raised h).1
      · exact advanceAfterWrite_raised h
    · exact ih h

/-- A relation kept by the parts of an operation: transfers of the bytes that `P` allows, and
writes of the cursor. -/
structure Kept (P : Kind → Byte → Prop) (R : State → State → Prop) : Prop where
  refl : ∀ s, R s s
  trans : ∀ {s t u}, R s t → R t u → R s u
  transfer : ∀ k b f s, P k b → R s (transfer k b f s).2
  cursor : ∀ s c r, R s (s.setCursor c r)

namespace Kept

variable {P : Kind → Byte → Prop} {R : State → State → Prop}

theorem andThen (K : Kept P R) {s : State} {f : Flow} {k : State → Flow} (h : R s f.state)
    (hk : ∀ u, R u (k u).state) : R s (f.andThen k).state := by
  cases f with
  | on u => exact K.trans h (hk u)
  | raised err u => exact h

theorem requireReady (K : Kept P R) (s : State) : R s (requireReady s).state := by
  unfold Machine.requireReady
  split <;> exact K.refl s

theorem tryTransfer (K : Kept P R) {k : Kind} {b : Byte} (hb : P k b) (s : State) :
    R s (tryTransfer k b s).state := by
  unfold Machine.tryTransfer
  split <;> exact K.transfer k b false s hb

theorem moveTo (K : Kept P R) (hset : ∀ a, P .command (cmdSetDdramByte a)) (c : Byte) (r : Nibble)
    (s : State) : R s (moveTo c r s).state := by
  unfold Machine.moveTo
  split
  · exact K.refl s
  · exact K.trans (K.cursor s _ _) (K.tryTransfer (hset _) _)

theorem advance (K : Kept P R) (hset : ∀ a, P .command (cmdSetDdramByte a)) (s : State) :
    R s (advanceAfterWrite s).state := by
  unfold advanceAfterWrite
  split
  · exact K.cursor s _ _
  · split <;> exact K.moveTo hset _ _ s

theorem spaces (K : Kept P R) (hset : ∀ a, P .command (cmdSetDdramByte a)) (hsp : P .data space)
    (n : Nat) (s : State) : R s (writeSpaces n s).state := by
  induction n generalizing s with
  | zero => exact K.refl s
  | succ n ih => exact K.andThen (K.andThen (K.tryTransfer hsp s) (K.advance hset)) ih

/-- A host operation other than `INIT`. -/
theorem exec (K : Kept P R) {i : Instr} {s t : State} (hset : ∀ a, P .command (cmdSetDdramByte a))
    (hsp : P .data space) (hd : ∀ d, i = .wrch d → P .data d) (hcl : P .command cmdClearByte)
    (hdis : ∀ a b c, P .command (cmdDisplayByte a b c)) (hx : ∀ k b, i = .xfer k b → P k b)
    (hflip : i = .togglePower → R s { s with pwrOn := !s.pwrOn })
    (hi : i.isHostOp = true) (hn : ∀ m, i ≠ .init m) (he : Machine.exec i s = .next t) :
    ∃ u st v, R s u ∧ t = { u with status := st, result := v } ∧
      (i ≠ .remain ∨ st ≠ .ok → v = 0) := by
  have main : ∀ f : Flow, R s f.state → (.next f.finish : Result) = .next t →
      ∃ u st v, R s u ∧ t = { u with status := st, result := v } ∧
        (i ≠ .remain ∨ st ≠ .ok → v = 0) := by
    intro f hf h
    obtain ⟨st, hst⟩ := f.finish_eq
    cases h
    exact ⟨f.state, st, 0, hf, hst, fun _ => rfl⟩
  cases i with
  | init m => exact absurd rfl (hn m)
  | wrch d =>
    exact main _ (K.andThen (K.andThen (K.requireReady s) (K.tryTransfer (hd d rfl)))
      (K.advance hset)) he
  | moveTo c r => exact main _ (K.andThen (K.requireReady s) (K.moveTo hset c r)) he
  | homeTop => exact main _ (K.andThen (K.requireReady s) (K.moveTo hset 0 0)) he
  | homeBot => exact main _ (K.andThen (K.requireReady s) (K.moveTo hset 0 1)) he
  | clearAll =>
    exact main _ (K.andThen (K.andThen (K.requireReady s) (K.tryTransfer hcl))
      (k := fun u => .on (u.setCursor 0 0)) (fun u => K.cursor u 0 0)) he
  | clearRow r =>
    exact main _ (K.andThen (K.andThen (K.andThen (K.requireReady s) (K.moveTo hset 0 _))
      (K.spaces hset hsp _)) (K.moveTo hset 0 _)) he
  | togglePower =>
    refine main ((Machine.requireReady s).andThen togglePower) ?_ he
    unfold Machine.requireReady
    split
    · exact K.trans (hflip rfl) (K.tryTransfer (hdis _ _ _) _)
    · exact K.refl s
  | remain =>
    simp only [Machine.exec, execRemain, Machine.requireReady] at he
    cases hs : s.inited with
    | true =>
      rw [hs] at he
      cases he
      exact ⟨s, .ok, remainingCapacity s, K.refl s, rfl, by simp⟩
    | false =>
      rw [hs] at he
      cases he
      exact ⟨s, .precallSequenceViolation, 0, K.refl s, rfl, fun _ => rfl⟩
  | xfer k b =>
    exact main _ (K.andThen (K.requireReady s) (K.tryTransfer (hx k b rfl))) he
  | _ => simp [Instr.isHostOp, Instr.wellFormed, Instr.format] at hi

end Kept

/-- A host operation other than `INIT`, for a relation that every transfer keeps. -/
theorem Kept.exec_all {R : State → State → Prop} (K : Kept (fun _ _ => True) R) {i : Instr}
    {s t : State} (hflip : i = .togglePower → R s { s with pwrOn := !s.pwrOn })
    (hi : i.isHostOp = true) (hn : ∀ m, i ≠ .init m) (he : Machine.exec i s = .next t) :
    ∃ u st v, R s u ∧ t = { u with status := st, result := v } ∧
      (i ≠ .remain ∨ st ≠ .ok → v = 0) :=
  K.exec (fun _ => trivial) trivial (fun _ _ => trivial) trivial (fun _ _ _ => trivial)
    (fun _ _ _ => trivial) hflip hi hn he

/-- The power-on sequence is a chain of transfers after the power-up delay (42_display_ops.md
R150). -/
theorem Kept.initSequence {P : Kind → Byte → Prop} {R : State → State → Prop} (K : Kept P R)
    (hfun : ∀ a b c, P .command (cmdFunctionByte a b c))
    (hdis : ∀ a b c, P .command (cmdDisplayByte a b c)) (hcl : P .command cmdClearByte)
    (hent : ∀ a, P .command (cmdEntryByte a)) (s : State) :
    R (s.delay .pwr) (Machine.initSequence s) :=
  K.trans (K.trans (K.trans (K.transfer _ _ _ _ (hfun _ _ _)) (K.transfer _ _ _ _ (hdis _ _ _)))
    (K.transfer _ _ _ _ hcl)) (K.transfer _ _ _ _ (hent _))

/-- A command at the device writes the device and nothing else. -/
theorem exec_command {i : Instr} {s t : State} (hi : i.isHostOp = false)
    (he : exec i s = .next t) : ∃ d, t = s.setDevice d := by
  cases i <;> first
    | (simp [Instr.isHostOp, Instr.wellFormed, Instr.format] at hi; done)
    | (cases he; exact ⟨_, rfl⟩)

end Sys2Proof.Machine
end

