-- ==== Sys2Proof/Laws/Device.lean ====
section
/-! SUPPORT. The device as a function of its own state and the bytes it takes: what it does with one
byte and with all the bytes on their way depends on nothing of the block and changes nothing of
it. -/

namespace Sys2Proof.Machine

/-- The device after one byte. -/
def Device.after (d : Device) (x : BusItem) : Device :=
  (acceptItem x { State.reset with device := d }).device

/-- The device after a list of bytes. -/
def Device.afterAll (d : Device) (xs : List BusItem) : Device := xs.foldl Device.after d

/-- The device's decoder gives only its own commands (30_encoding.md R78). -/
theorem decodeCmd_isCommand {b : Byte} {i : Instr} (h : decodeCmd b = .ok i) :
    i.isCommand = true := by
  have all : ∀ b : Byte, (match decodeCmd b with
      | .ok i => i.isCommand
      | .error _ => true) = true := by decide +kernel
  have hb := all b
  rw [h] at hb
  exact hb

/-- A byte the device takes writes the device and nothing else, and what it writes depends on the
device and nothing else (20_memory.md R57). -/
theorem acceptTaken_eq (x : BusItem) (s : State) :
    acceptTaken x s =
      s.setDevice (acceptTaken x { State.reset with device := s.device }).device := by
  obtain ⟨kind, byte, sure⟩ := x
  cases kind with
  | data => rfl
  | command =>
    simp only [acceptTaken]
    cases h : decodeCmd byte with
    | error e => rfl
    | ok i =>
      have hi := decodeCmd_isCommand h
      cases i with
      | cmdClear => rfl
      | cmdHome x => rfl
      | cmdEntry inc shift => rfl
      | cmdDisplay on cursor blink => rfl
      | cmdFunction bus8 two font11 x => rfl
      | cmdSetDdram addr => rfl
      | _ => cases hi

/-- A byte that reaches the device, taken or lost, writes the device and nothing else. -/
theorem acceptItem_eq (x : BusItem) (s : State) :
    acceptItem x s = s.setDevice (s.device.after x) := by
  cases hx : x.sure with
  | true =>
    simp only [Device.after, acceptItem, hx, if_true]
    exact acceptTaken_eq x s
  | false =>
    cases ht : s.device.takesDoubtful with
    | true =>
      simp only [Device.after, acceptItem, hx, ht, if_true, Bool.false_eq_true, if_false]
      rw [acceptTaken_eq]
      rfl
    | false =>
      simp only [Device.after, acceptItem, hx, ht, Bool.false_eq_true, if_false]
      rfl

/-- A command of the device ends in a next state. -/
theorem exec_isCommand {i : Instr} (h : i.isCommand = true) (s : State) :
    ∃ t, exec i s = .next t := by
  cases i <;> first
    | exact ⟨_, rfl⟩
    | simp [Instr.isCommand, Instr.wellFormed, Instr.format] at h

/-- A step with a byte on its way is that byte reaching the device (10_state.md R11; log 12). -/
theorem step_device {s : State} {x : BusItem} {rest : List BusItem} (h : s.bus = x :: rest) :
    step s = .next (acceptItem x { s with bus := rest }) := by
  have taken : ∀ u : State, (match fetchTaken x u with
      | .idle => .next s
      | .instr i t => exec i t
      | .char i t => mapNext settleString (exec i t)
      | .stringDone t => .next t
      | .reserved t => .next (raise .illegalOperation t)
      | .data d t => .next (acceptData d t)
      | .unknownCommand t => .next t.deviceUnspecified
      | .lost t => .next t : Result) = .next (acceptTaken x u) := by
    intro u
    cases hk : x.kind with
    | data => simp [fetchTaken, acceptTaken, hk]
    | command =>
      cases hd : decodeCmd x.byte with
      | error e => simp [fetchTaken, acceptTaken, hk, hd, decode]
      | ok i =>
        obtain ⟨t, ht⟩ := exec_isCommand (decodeCmd_isCommand hd) u
        simp [fetchTaken, acceptTaken, hk, hd, decode, ht]
  cases hx : x.sure with
  | true =>
    simp only [step, fetch, h, fetchDevice, acceptItem, hx, if_true]
    exact taken _
  | false =>
    cases ht : s.device.takesDoubtful with
    | true =>
      simp only [step, fetch, h, fetchDevice, acceptItem, hx, ht, if_true, Bool.false_eq_true,
        if_false]
      exact taken _
    | false =>
      simp only [step, fetch, h, fetchDevice, acceptItem, hx, ht, Bool.false_eq_true, if_false]

theorem acceptAll_eq (xs : List BusItem) (s : State) :
    acceptAll xs s = s.setDevice (s.device.afterAll xs) := by
  induction xs generalizing s with
  | nil => rfl
  | cons x xs ih =>
    show acceptAll xs (acceptItem x s) = _
    rw [acceptItem_eq, ih]
    rfl

/-- The device once every byte on its way has arrived. -/
theorem drained_device (s : State) : s.drained.device = s.device.afterAll s.bus := by
  unfold State.drained
  rw [acceptAll_eq]
  rfl

theorem drained_params (s : State) : s.drained.params = s.params := by
  unfold State.drained
  rw [acceptAll_eq]
  rfl

theorem Device.afterAll_append (d : Device) (xs ys : List BusItem) :
    d.afterAll (xs ++ ys) = (d.afterAll xs).afterAll ys := List.foldl_append

/-! One byte at a time. -/

/-- A byte in doubt acts as the byte does, or not at all; one free value is drawn (40_transport.md
R115). -/
theorem Device.after_doubtful (d : Device) (x : BusItem) (h : x.sure = false) :
    d.after x =
      if d.takesDoubtful then Device.after { d with draws := d.draws + 1 } { x with sure := true }
      else { d with draws := d.draws + 1 } := by
  simp only [Device.after, acceptItem, h, if_true, Bool.false_eq_true, if_false]
  split <;> rfl

theorem Device.after_data (d : Device) (b : Byte) : d.after (dataItem b) = d.storeData b := rfl

theorem Device.after_setDdram (d : Device) (a : Address) :
    d.after (cmdItem (cmdSetDdramByte a)) = d.setAddress a := by
  have h : ∀ a, decodeCmd (cmdSetDdramByte a) = .ok (.cmdSetDdram a) := by decide +kernel
  simp [Device.after, acceptItem, acceptTaken, cmdItem, h, exec, execCmdSetDdram]

theorem Device.after_display (d : Device) (on cursor blink : Bool) :
    d.after (cmdItem (cmdDisplayByte on cursor blink)) = d.displayControl on cursor blink := by
  cases on <;> cases cursor <;> cases blink <;> rfl

theorem Device.after_function (d : Device) (bus8 two font11 : Bool) :
    d.after (cmdItem (cmdFunctionByte bus8 two font11)) = d := by
  cases bus8 <;> cases two <;> cases font11 <;> rfl

theorem Device.after_entry (d : Device) (inc : Bool) :
    d.after (cmdItem (cmdEntryByte inc)) = d.entryMode inc := by
  cases inc <;> rfl

theorem Device.after_clear (d : Device) : d.after (cmdItem cmdClearByte) = d.clear := rfl

end Sys2Proof.Machine
end

