-- ==== Sys2Proof/Laws/Memory.lean ====
section
/-! SUPPORT. Laws of DDRAM: a read after a write, the canonical form, and that every operation of the
device keeps it. -/

namespace Sys2Proof.Machine

theorem Memory.read_write_same (m : Memory) (a : Address) (v : Byte) :
    (m.write a v).read a = v := by
  induction m with
  | nil => simp [Memory.write, Memory.read]
  | cons c rest ih =>
    obtain ⟨b, w⟩ := c
    simp only [Memory.write]
    split
    · simp [Memory.read]
    · split
      · simp [Memory.read]
      · rename_i hab
        simp [Memory.read, hab, ih]

theorem Memory.read_write_other (m : Memory) {a x : Address} (v : Byte) (h : x ≠ a) :
    (m.write a v).read x = m.read x := by
  have hn : x.toNat ≠ a.toNat := fun e => h (BitVec.eq_of_toNat_eq e)
  induction m with
  | nil => simp [Memory.write, Memory.read, hn]
  | cons c rest ih =>
    obtain ⟨b, w⟩ := c
    simp only [Memory.write]
    split
    · simp [Memory.read, hn]
    · split
      · rename_i hab
        subst hab
        simp [Memory.read, hn]
      · simp only [Memory.read, ih]

/-- Writing a listed address keeps the list of addresses. -/
theorem Memory.coversFrom_write {m : Memory} {lo : Nat} {a : Address} (v : Byte)
    (h : Memory.coversFrom lo m = true) (hlo : lo ≤ a.toNat) :
    Memory.coversFrom lo (m.write a v) = true := by
  induction m generalizing lo with
  | nil =>
    have := a.isLt
    simp only [Memory.coversFrom, ddramSize, beq_iff_eq] at h
    omega
  | cons c rest ih =>
    obtain ⟨b, w⟩ := c
    simp only [Memory.coversFrom, Bool.and_eq_true, beq_iff_eq] at h
    obtain ⟨rfl, h⟩ := h
    simp only [Memory.write]
    split
    · omega
    · split
      · rename_i hab
        simp [Memory.coversFrom, hab, h]
      · simp only [Memory.coversFrom, beq_self_eq_true, Bool.true_and]
        exact ih h (by omega)

/-- A write keeps the canonical form. -/
theorem Memory.wf_write {m : Memory} (a : Address) (v : Byte) (h : m.wf = true) :
    (m.write a v).wf = true :=
  Memory.coversFrom_write v h (Nat.zero_le _)

theorem Memory.coversFrom_tabulate (f : Nat → Byte) (n lo : Nat) (h : lo + n = ddramSize) :
    Memory.coversFrom lo (Memory.tabulate f lo n) = true := by
  induction n generalizing lo with
  | zero => simpa [Memory.tabulate, Memory.coversFrom] using h
  | succ n ih =>
    simp only [Memory.tabulate, Memory.coversFrom, beq_self_eq_true, Bool.true_and]
    exact ih (lo + 1) (by omega)

/-- A filled DDRAM is in canonical form. -/
theorem Memory.wf_filled (v : Byte) : (Memory.filled v).wf = true :=
  Memory.coversFrom_tabulate _ ddramSize 0 rfl

/-- A DDRAM of free values is in canonical form. -/
theorem Memory.wf_free (n : Nat) : (Memory.free n).wf = true :=
  Memory.coversFrom_tabulate _ ddramSize 0 rfl

theorem Memory.read_tabulate (f : Nat → Byte) {n lo : Nat} {a : Address} (hlo : lo ≤ a.toNat)
    (h : a.toNat < lo + n) : (Memory.tabulate f lo n).read a = f a.toNat := by
  induction n generalizing lo with
  | zero => omega
  | succ n ih =>
    simp only [Memory.tabulate, Memory.read]
    split
    · rename_i hab
      rw [hab]
    · exact ih (by omega) (by omega)

@[simp] theorem Memory.read_filled (v : Byte) (a : Address) : (Memory.filled v).read a = v :=
  Memory.read_tabulate _ (Nat.zero_le _) (by simpa [ddramSize] using a.isLt)

/-- An unspecified cell is the free value of its own number (R56, R58). -/
@[simp] theorem Memory.read_free (n : Nat) (a : Address) :
    (Memory.free n).read a = Config.freeCell n a.toNat :=
  Memory.read_tabulate _ (Nat.zero_le _) (by simpa [ddramSize] using a.isLt)

/-- A memory that covers the addresses from `lo` on starts no higher than at the end. -/
theorem Memory.coversFrom_le {m : Memory} {lo : Nat} (h : Memory.coversFrom lo m = true) :
    lo ≤ ddramSize := by
  induction m generalizing lo with
  | nil => simpa [Memory.coversFrom] using Nat.le_of_eq (by simpa [Memory.coversFrom] using h)
  | cons c rest ih =>
    simp only [Memory.coversFrom, Bool.and_eq_true] at h
    have := ih h.2
    omega

/-- Memories that cover the same addresses and read alike there are equal lists. -/
theorem Memory.ext_coversFrom {m m' : Memory} {lo : Nat} (h : Memory.coversFrom lo m = true)
    (h' : Memory.coversFrom lo m' = true)
    (hr : ∀ a : Address, lo ≤ a.toNat → m.read a = m'.read a) : m = m' := by
  induction m generalizing lo m' with
  | nil =>
    cases m' with
    | nil => rfl
    | cons c rest =>
      simp only [Memory.coversFrom, Bool.and_eq_true, beq_iff_eq] at h h'
      have := Memory.coversFrom_le h'.2
      omega
  | cons c rest ih =>
    obtain ⟨b, w⟩ := c
    simp only [Memory.coversFrom, Bool.and_eq_true, beq_iff_eq] at h
    obtain ⟨rfl, h⟩ := h
    have hb := Memory.coversFrom_le h
    cases m' with
    | nil =>
      simp only [Memory.coversFrom, beq_iff_eq] at h'
      omega
    | cons c' rest' =>
      obtain ⟨b', w'⟩ := c'
      simp only [Memory.coversFrom, Bool.and_eq_true, beq_iff_eq] at h'
      obtain ⟨rfl, h'⟩ := h'
      simp only [ddramSize] at hb
      have hb' : (BitVec.ofNat 7 b').toNat = b' := by simp; omega
      have hw : w = w' := by simpa [Memory.read, hb'] using hr (BitVec.ofNat 7 b') (by omega)
      have htail : rest = rest' := ih h h' (fun a ha => by
        have hne : a.toNat ≠ b' := by omega
        simpa [Memory.read, hne] using hr a (by omega))
      rw [hw, htail]

/-- DDRAM is a total map: two memories in canonical form that read alike are the same. -/
theorem Memory.ext_wf {m m' : Memory} (h : m.wf = true) (h' : m'.wf = true)
    (hr : ∀ a, m.read a = m'.read a) : m = m' :=
  Memory.ext_coversFrom h h' (fun a _ => hr a)

@[simp] theorem Device.stepAc_ddram (d : Device) : d.stepAc.ddram = d.ddram := rfl

theorem Device.wf_storeData {d : Device} (v : Byte) (h : d.ddram.wf = true) :
    (d.storeData v).ddram.wf = true :=
  Memory.wf_write d.ac v h

/-- A device with an unspecified state has its DDRAM in canonical form. -/
theorem Device.wf_unspecified (n : Nat) : (Device.unspecified n).ddram.wf = true :=
  Memory.wf_free n

/-- Reset's DDRAM is in canonical form. -/
theorem reset_ddram_wf : State.reset.device.ddram.wf = true := Memory.wf_free 0

end Sys2Proof.Machine
end

