-- ==== Sys2Proof/Laws/PerInstr.lean ====
section
/-! SUPPORT. The family `TableRow`, one lemma per instruction: its encoding goes to its own port and
selects exactly one row of the match/mask tables of 30_encoding.md R72 and R78, the row of its
mnemonic. -/

namespace Sys2Proof.Laws.TableRow

/-- The encoding of `i` selects the row of its own mnemonic and no other. -/
def Statement (i : Instr) : Prop :=
  (encode i).format = i.format ∧ (encode i).rows = [i.mnemonic]

theorem init (mode : Byte) : Statement (.init mode) :=
  ⟨rfl, by revert mode; decide +kernel⟩

theorem wrch (d : Byte) : Statement (.wrch d) :=
  ⟨rfl, by revert d; decide +kernel⟩

theorem moveTo (col : Byte) (row : Nibble) : Statement (.moveTo col row) :=
  ⟨rfl, by revert col row; decide +kernel⟩

theorem homeTop : Statement .homeTop := ⟨rfl, by decide +kernel⟩

theorem homeBot : Statement .homeBot := ⟨rfl, by decide +kernel⟩

theorem clearAll : Statement .clearAll := ⟨rfl, by decide +kernel⟩

theorem clearRow (row : Nibble) : Statement (.clearRow row) :=
  ⟨rfl, by revert row; decide +kernel⟩

theorem togglePower : Statement .togglePower := ⟨rfl, by decide +kernel⟩

theorem remain : Statement .remain := ⟨rfl, by decide +kernel⟩

theorem xfer (kind : Kind) (byte : Byte) : Statement (.xfer kind byte) := by
  refine ⟨rfl, ?_⟩
  cases kind <;> revert byte <;> decide +kernel

theorem cmdClear : Statement .cmdClear := ⟨rfl, by decide +kernel⟩

theorem cmdHome (ignored : Bool) : Statement (.cmdHome ignored) :=
  ⟨rfl, by revert ignored; decide +kernel⟩

theorem cmdEntry (inc shift : Bool) : Statement (.cmdEntry inc shift) :=
  ⟨rfl, by revert inc shift; decide +kernel⟩

theorem cmdDisplay (on cursor blink : Bool) : Statement (.cmdDisplay on cursor blink) :=
  ⟨rfl, by revert on cursor blink; decide +kernel⟩

theorem cmdFunction (bus8 two font11 : Bool) (ignored : BitVec 2) :
    Statement (.cmdFunction bus8 two font11 ignored) :=
  ⟨rfl, by revert bus8 two font11 ignored; decide +kernel⟩

theorem cmdSetDdram (addr : Address) : Statement (.cmdSetDdram addr) :=
  ⟨rfl, by revert addr; decide +kernel⟩

end Sys2Proof.Laws.TableRow
end

