-- ==== Sys2Proof/Laws/Sent.lean ====
section
/-! SUPPORT. The fields that sending a byte leaves alone (40_transport.md R100 to R106), for `sent`
and `sentAll` of Sys2Proof/Safety.lean. -/

namespace Sys2Proof.Machine

section
variable (k : Kind) (b : Byte) (xs ys : List BusItem) (s : State) (c : BitVec 5) (r : BitVec 1)

@[simp] theorem sent_inited : (sent k b s).inited = s.inited := by
  unfold sent
  split <;> rfl

@[simp] theorem sent_pwrOn : (sent k b s).pwrOn = s.pwrOn := by
  unfold sent
  split <;> rfl

@[simp] theorem sent_curCol : (sent k b s).curCol = s.curCol := by
  unfold sent
  split <;> rfl

@[simp] theorem sent_curRow : (sent k b s).curRow = s.curRow := by
  unfold sent
  split <;> rfl

@[simp] theorem sent_mode : (sent k b s).mode = s.mode := by
  unfold sent
  split <;> rfl

@[simp] theorem sent_status : (sent k b s).status = s.status := by
  unfold sent
  split <;> rfl

@[simp] theorem sent_result : (sent k b s).result = s.result := by
  unfold sent
  split <;> rfl

@[simp] theorem sent_host : (sent k b s).host = s.host := by
  unfold sent
  split <;> rfl

@[simp] theorem sent_device : (sent k b s).device = s.device := by
  unfold sent
  split <;> rfl

@[simp] theorem sent_params : (sent k b s).params = s.params := by
  unfold sent
  split <;> rfl

/-- The byte is in doubt where its poll times out (R115). -/
@[simp] theorem sent_bus : (sent k b s).bus = s.bus ++ [⟨k, b, !s.timesOut⟩] := by
  cases h : s.modePoll <;>
    simp [sent, h, sentPolled, sentFixed, State.timesOut]

theorem sent_setCursor : sent k b (s.setCursor c r) = (sent k b s).setCursor c r := by
  unfold sent
  cases h : s.modePoll with
  | true => rw [if_pos (show (s.setCursor c r).modePoll = true from h)]; rfl
  | false => rw [if_neg (by rw [show (s.setCursor c r).modePoll = false from h]; simp)]; rfl

theorem sentAll_append : sentAll (xs ++ ys) s = sentAll ys (sentAll xs s) := List.foldl_append

theorem allReady_append :
    allReady (xs ++ ys) s = (allReady xs s && allReady ys (sentAll xs s)) := by
  induction xs generalizing s with
  | nil => rfl
  | cons x xs ih =>
    show (!s.timesOut && allReady (xs ++ ys) _) = ((!s.timesOut && allReady xs _) && allReady ys _)
    rw [ih, Bool.and_assoc]
    rfl

/-- Where nothing times out every byte is sure to be taken. -/
theorem sentAll_bus (h : allReady xs s = true) :
    (sentAll xs s).bus = s.bus ++ xs.map (fun x => ⟨x.kind, x.byte, true⟩) := by
  induction xs generalizing s with
  | nil => simp [sentAll]
  | cons x xs ih =>
    simp only [allReady, Bool.and_eq_true] at h
    show (sentAll xs (sent x.kind x.byte s)).bus = _
    rw [ih _ h.2]
    simp [h.1]

@[simp] theorem sentAll_inited : (sentAll xs s).inited = s.inited := by
  induction xs generalizing s with
  | nil => rfl
  | cons x xs ih => exact (ih (sent x.kind x.byte s)).trans (sent_inited x.kind x.byte s)

@[simp] theorem sentAll_pwrOn : (sentAll xs s).pwrOn = s.pwrOn := by
  induction xs generalizing s with
  | nil => rfl
  | cons x xs ih => exact (ih (sent x.kind x.byte s)).trans (sent_pwrOn x.kind x.byte s)

@[simp] theorem sentAll_curCol : (sentAll xs s).curCol = s.curCol := by
  induction xs generalizing s with
  | nil => rfl
  | cons x xs ih => exact (ih (sent x.kind x.byte s)).trans (sent_curCol x.kind x.byte s)

@[simp] theorem sentAll_curRow : (sentAll xs s).curRow = s.curRow := by
  induction xs generalizing s with
  | nil => rfl
  | cons x xs ih => exact (ih (sent x.kind x.byte s)).trans (sent_curRow x.kind x.byte s)

@[simp] theorem sentAll_mode : (sentAll xs s).mode = s.mode := by
  induction xs generalizing s with
  | nil => rfl
  | cons x xs ih => exact (ih (sent x.kind x.byte s)).trans (sent_mode x.kind x.byte s)

@[simp] theorem sentAll_status : (sentAll xs s).status = s.status := by
  induction xs generalizing s with
  | nil => rfl
  | cons x xs ih => exact (ih (sent x.kind x.byte s)).trans (sent_status x.kind x.byte s)

@[simp] theorem sentAll_result : (sentAll xs s).result = s.result := by
  induction xs generalizing s with
  | nil => rfl
  | cons x xs ih => exact (ih (sent x.kind x.byte s)).trans (sent_result x.kind x.byte s)

@[simp] theorem sentAll_host : (sentAll xs s).host = s.host := by
  induction xs generalizing s with
  | nil => rfl
  | cons x xs ih => exact (ih (sent x.kind x.byte s)).trans (sent_host x.kind x.byte s)

@[simp] theorem sentAll_device : (sentAll xs s).device = s.device := by
  induction xs generalizing s with
  | nil => rfl
  | cons x xs ih => exact (ih (sent x.kind x.byte s)).trans (sent_device x.kind x.byte s)

@[simp] theorem sentAll_params : (sentAll xs s).params = s.params := by
  induction xs generalizing s with
  | nil => rfl
  | cons x xs ih => exact (ih (sent x.kind x.byte s)).trans (sent_params x.kind x.byte s)

end

end Sys2Proof.Machine
end

