-- ==== Sys2Proof/Tests/Slice0.lean ====
section
/-! SUPPORT. Tests of single steps with results from spec/95_test_vectors.md, the smoke tests of
WellFormed, a decoding of every constructor from a word written out from 30_encoding.md, and for
every statement with hypotheses a witness that meets them. -/

namespace Sys2Proof.Tests

open Sys2Proof.Machine

/-! ## Small states -/

/-- Parameters with nothing open: `POLL_LIMIT` as given. -/
def params (limit : Nat) : Params :=
  { rowBase0 := 0x00, rowBase1 := 0x40, pollLimit := limit, tShort := 43, tLong := 1500,
    tPwr := 15000 }

/-- A device that agrees with a block whose cursor is there, every cell holding `2E`. -/
def device (mode : Byte) (col : BitVec 5) (row : BitVec 1) : Device :=
  { ddram := Memory.filled 0x2E, ac := resolve (params 3) (colOperand col) (rowOperand row), dir := .inc,
    dispD := true, dispC := mode.getLsbD 3, dispB := mode.getLsbD 4, draws := 0 }

/-- Ready in a mode with the cursor at a position and the device's next busy answers given. -/
def ready (mode : Byte) (col : BitVec 5) (row : BitVec 1) (answers : List Bool := [])
    (limit : Nat := 3) : State :=
  { inited := true, pwrOn := true, curCol := col, curRow := row, mode := mode, status := .ok,
    result := 0, pinRs := false, pinRw := false, pinE := false, pinDb := .released, trace := [],
    host := [], answers := answers, bus := [], device := device mode col row,
    params := params limit, draws := 0 }

/-- As after reset, with nothing open. -/
def fresh : State := { ready 0 0 0 with inited := false, pwrOn := false }

/-- The state after an instruction. -/
def after (i : Instr) (s : State) : State :=
  match exec i s with
  | .next t => t
  | .fault _ => s
  | .refused _ => s

/-- The state after a step. -/
def stepped (s : State) : State :=
  match step s with
  | .next t => t
  | .fault _ => s
  | .refused _ => s

/-- The transfer trace, status and cursor of an instruction. -/
def seen (i : Instr) (s : State) : Option (List Item) × Status × Nat × Nat :=
  let t := after i s
  (transferTrace t.trace, t.status, t.curCol.toNat, t.curRow.toNat)

/-! ## WellFormed -/

theorem smoke_command_at_the_operation_port : Instr.wellFormed .opw .cmdClear = false := by decide

theorem smoke_operation_at_the_device : Instr.wellFormed .cmd8 (.init 0x23) = false := by decide

theorem smoke_operation_at_its_port : Instr.wellFormed .opw (.moveTo 255 15) = true := by decide

/-! ## Decoding: words written out by bits from 30_encoding.md R72 and R78 to R84 -/

theorem test_decode_init : decodeOp 0b0001_0000_00100011 = .ok (.init 0x23) := by decide
theorem test_decode_wrch : decodeOp 0b0010_0000_01001000 = .ok (.wrch 0x48) := by decide
theorem test_decode_moveTo : decodeOp 0b0011_1001_00000011 = .ok (.moveTo 3 9) := by decide
theorem test_decode_homeTop : decodeOp 0b0100_0000_00000000 = .ok .homeTop := by decide
theorem test_decode_homeBot : decodeOp 0b0101_0000_00000000 = .ok .homeBot := by decide
theorem test_decode_clearAll : decodeOp 0b0110_0000_00000000 = .ok .clearAll := by decide
theorem test_decode_clearRow : decodeOp 0b0111_0101_00000000 = .ok (.clearRow 5) := by decide
theorem test_decode_togglePower : decodeOp 0b1000_0000_00000000 = .ok .togglePower := by decide
theorem test_decode_remain : decodeOp 0b1001_0000_00000000 = .ok .remain := by decide
theorem test_decode_xfer_data : decodeOp 0b1010_000_1_01000001 = .ok (.xfer .data 0x41) := by decide
theorem test_decode_xfer_command :
    decodeOp 0b1010_000_0_00001000 = .ok (.xfer .command 0x08) := by decide
theorem test_decode_cmdClear : decodeCmd 0b00000001 = .ok .cmdClear := by decide
theorem test_decode_cmdHome : decodeCmd 0b0000001_1 = .ok (.cmdHome true) := by decide
theorem test_decode_cmdEntry : decodeCmd 0b000001_1_0 = .ok (.cmdEntry true false) := by decide
theorem test_decode_cmdDisplay :
    decodeCmd 0b00001_1_0_1 = .ok (.cmdDisplay true false true) := by decide
theorem test_decode_cmdFunction :
    decodeCmd 0b001_1_1_0_00 = .ok (.cmdFunction true true false 0) := by decide
theorem test_decode_cmdSetDdram : decodeCmd 0b1_1000101 = .ok (.cmdSetDdram 0x45) := by decide
theorem test_reserved_opcode : decodeOp 0xC123 = .error .reservedOp := by decide
theorem test_reserved_field : decodeOp 0xA400 = .error .nonzeroField := by decide
theorem test_no_command : decodeCmd 0x00 = .error .noCommand := by decide
theorem test_table_word :
    decodeTableWord 16 0x3105 = some (.moveTo 5 1) ∧ decodeTableWord 8 0x38 =
      some (.cmdFunction true true false 0) ∧ decodeTableWord 16 0xB000 = none := by decide

/-! ## Transport: pin traces T1, T3, T5, T6 and T7 of 95_test_vectors.md -/

theorem test_pins_eight_bit_fixed : (after (.moveTo 5 1) (ready 0x23 0 0)).trace =
    [.rw false, .rs false, .e true, .dbw8 0xC5, .e false, .dly .short] := by decide

theorem test_pins_four_bit_fixed : (after (.wrch 0x48) (ready 0x22 0 0)).trace =
    [.rw false, .rs true, .e true, .dbw4 0x4, .e false, .e true, .dbw4 0x8, .e false,
      .dly .short] := by decide

theorem test_pins_eight_bit_poll : (after .togglePower (ready 0xA3 0 0 [true, false])).trace =
    [.rw false, .rs false, .e true, .dbw8 0x08, .e false,
      .dbz, .rs false, .rw true, .e true, .bf true, .e false, .rw false,
      .dbz, .rs false, .rw true, .e true, .bf false, .e false, .rw false] := by decide

theorem test_pins_four_bit_poll : (after .homeBot (ready 0xA2 0 0 [true, false])).trace =
    [.rw false, .rs false, .e true, .dbw4 0xC, .e false, .e true, .dbw4 0x0, .e false,
      .dbz, .rs false, .rw true, .e true, .bf true, .e false, .e true, .e false, .rw false,
      .dbz, .rs false, .rw true, .e true, .bf false, .e false, .e true, .e false,
      .rw false] := by decide

theorem test_poll_times_out :
    seen (.xfer .command 0x0C) (ready 0xA3 0 0 [true, true, true]) =
      (some [.xfer .command 0x0C, .polledOut 3], .hardwareTimeout, 0, 0) := by decide

theorem test_xfer_home_waits_long : seen (.xfer .command 0x03) (ready 0x23 4 1) =
    (some [.xfer .command 0x03, .wait .long], .ok, 4, 1) := by decide

/-! ## Operations: S2, O1, A2 to A6, O2 to O5, X1 of 95_test_vectors.md -/

theorem test_init : seen (.init 0x23) fresh =
    (some [.wait .pwr, .xfer .command 0x38, .wait .short, .xfer .command 0x0C, .wait .short,
      .xfer .command 0x01, .wait .long, .xfer .command 0x06, .wait .short], .ok, 0, 0) := by decide

theorem test_init_polling_mode_still_waits : seen (.init 0xE3) (ready 0x23 17 1) =
    (some [.wait .pwr, .xfer .command 0x38, .wait .short, .xfer .command 0x0C, .wait .short,
      .xfer .command 0x01, .wait .long, .xfer .command 0x06, .wait .short], .ok, 0, 0) := by decide

theorem test_wrch_wraps : seen (.wrch 0x78) (ready 0x63 23 0) =
    (some [.xfer .data 0x78, .wait .short, .xfer .command 0xC0, .wait .short],
      .ok, 0, 1) := by decide

theorem test_wrch_saturates_on_row_1 : seen (.wrch 0x78) (ready 0x63 23 1) =
    (some [.xfer .data 0x78, .wait .short, .xfer .command 0xD7, .wait .short],
      .ok, 23, 1) := by decide

theorem test_moveTo_last_column : seen (.moveTo 23 15) (ready 0x23 9 1) =
    (some [.xfer .command 0x97, .wait .short], .ok, 23, 0) := by decide

theorem test_moveTo_beyond : seen (.moveTo 24 1) (ready 0x23 9 1) =
    (some [], .invalidPosition, 9, 1) := by decide

theorem test_homeTop : seen .homeTop (ready 0x23 7 1) =
    (some [.xfer .command 0x80, .wait .short], .ok, 0, 0) := by decide

theorem test_homeBot : seen .homeBot (ready 0x23 7 0) =
    (some [.xfer .command 0xC0, .wait .short], .ok, 0, 1) := by decide

theorem test_clearAll : seen .clearAll (ready 0x23 9 1) =
    (some [.xfer .command 0x01, .wait .long], .ok, 0, 0) := by decide

theorem test_clearAll_timeout_keeps_the_cursor :
    seen .clearAll (ready 0xA3 9 1 [true, true] 2) =
      (some [.xfer .command 0x01, .polledOut 2], .hardwareTimeout, 9, 1) := by decide

theorem test_clearRow : seen (.clearRow 0) (ready 0x63 9 1) =
    (some (.xfer .command 0x80 :: .wait .short ::
      (List.replicate 24 [Item.xfer .data 0x20, .wait .short]).flatten ++
      [.xfer .command 0xC0, .wait .short, .xfer .command 0x80, .wait .short]),
      .ok, 0, 0) := by decide +kernel

theorem test_clearRow_timeout_at_the_third_space :
    seen (.clearRow 0) (ready 0xE3 9 1 [false, false, false, true, true] 2) =
      (some [.xfer .command 0x80, .polled 1, .xfer .data 0x20, .polled 1, .xfer .data 0x20,
        .polled 1, .xfer .data 0x20, .polledOut 2], .hardwareTimeout, 2, 0) := by decide +kernel

theorem test_togglePower_sends_the_flipped_flag :
    (seen .togglePower (ready 0x3B 0 0), (after .togglePower (ready 0x3B 0 0)).pwrOn) =
      ((some [.xfer .command 0x0B, .wait .short], .ok, 0, 0), false) := by decide

theorem test_remain_row_0 : (after .remain (ready 0x23 5 0)).result = 43 := by decide

theorem test_remain_last_cell : (after .remain (ready 0x23 23 1)).result = 1 := by decide

theorem test_rejection_before_init :
    after (.moveTo 30 0) fresh = { fresh with status := .precallSequenceViolation } := by decide

theorem test_string_stops :
    writeString [0x41, 0x42, 0x43] (ready 0xA3 0 0 [false, true, true] 2) =
      .next (after (.wrch 0x42) (after (.wrch 0x41) (ready 0xA3 0 0 [false, true, true] 2))) := by
  rfl

theorem test_timed_out_byte_is_in_doubt :
    (after (.wrch 0x41) (ready 0xA3 0 0 [true, true, true])).bus = [⟨.data, 0x41, false⟩] ∧
      (after (.wrch 0x41) (ready 0xA3 0 0 [true, true, false])).bus = [dataItem 0x41] := by
  decide

theorem test_trace_shows_the_byte_in_doubt :
    busItems [.xfer .data 0x41, .polled 1, .xfer .data 0x42, .polledOut 2] =
      [⟨.data, 0x41, true⟩, ⟨.data, 0x42, false⟩] := by decide

theorem test_response : (after (.moveTo 24 0) (ready 0x23 5 1)).resp = 0x200 := by decide

/-! ## The device: 20_memory.md R59 to R61 -/

theorem test_device_data_wraps :
    (stepped { ready 0x23 0 0 with
      bus := [dataItem 0x41], device := { device 0x23 0 0 with ac := 0x7F } }).device =
      { device 0x23 0 0 with ddram := (Memory.filled 0x2E).write 0x7F 0x41, ac := 0 } := by
  decide +kernel

theorem test_memory_write_reads_back :
    ((Memory.filled 0x2E).write 0x7F 0x41).read 0x7F = 0x41 ∧
      ((Memory.filled 0x2E).write 0x7F 0x41).read 0x7E = 0x2E ∧
      ((Memory.filled 0x2E).write 0x7F 0x41).length = 128 := by decide +kernel

theorem test_device_data_steps_down :
    (stepped { ready 0x03 0 0 with
      bus := [dataItem 0x41], device := { device 0x03 0 0 with dir := .dec } }).device =
      { device 0x03 0 0 with
        ddram := (Memory.filled 0x2E).write 0 0x41, ac := 0x7F, dir := .dec } := by
  decide +kernel

theorem test_device_clear :
    (after .cmdClear (ready 0x23 5 1)).device.ddram.read 0x7F = 0x20 ∧
      (after .cmdClear (ready 0x23 5 1)).device.ac = 0 := by decide +kernel

theorem test_row_after_a_write :
    (after (.wrch 0x41) (ready 0x23 1 0)).drained.row 0 =
      0x2E :: 0x41 :: List.replicate 22 0x2E ∧
    (after (.wrch 0x41) (ready 0x23 1 0)).drained.row 1 = List.replicate 24 0x2E := by
  decide +kernel

theorem test_device_entry : (after (.cmdEntry false true) (ready 0x23 5 1)).device.dir = .dec := by
  decide

theorem test_device_address : (after (.cmdSetDdram 0x45) (ready 0x23 0 0)).device.ac = 0x45 := by
  decide

/-! ## Steps -/

theorem test_reserved_word_step :
    step { fresh with host := [.word 0x1123] } =
      .next { fresh with status := .illegalOperation } := by rfl

theorem test_placed_word_runs :
    step (State.reset.withFetchWord 16 0x3105) =
      .next { State.reset with status := .precallSequenceViolation } := by rfl

theorem test_placed_init_runs :
    ∃ t, step (State.reset.withFetchWord 16 0x1023) = .next t ∧ t.inited = true ∧ t.mode = 0x23 :=
  ⟨_, rfl, rfl, rfl⟩

theorem test_placed_clear_runs :
    ∃ t, step (State.reset.withFetchWord 8 0x01) = .next t ∧ t.device.ac = 0 := ⟨_, rfl, rfl⟩

theorem test_placed_command_runs :
    step ((ready 0x23 0 0).withFetchWord 8 0xC5) =
      .next { ready 0x23 0 0 with device := { device 0x23 0 0 with ac := 0x45 } } := by rfl

theorem test_the_device_moves_first :
    (stepped { ready 0x23 0 0 with host := [.word 0x4000], bus := [cmdItem 0xC0] }).host =
      [.word 0x4000] := by decide

/-! ## Witnesses: for every statement with hypotheses, states and operands that meet them -/

/-- Ready before row 0's last cell, wrapping, with a device that answers ready. -/
def edge : State := ready 0x63 22 0

/-- Ready at row 0's last cell, wrapping. -/
def last : State := ready 0x63 23 0

/-- Polling, and the next poll times out. -/
def stuck : State := ready 0xE3 23 0 [true, true, true]

/-- A host's word at an idle port. -/
def presenting (s : State) (w : OpWord) : State := { s with host := [.word w] }

theorem witness_EncodeOfDecodeIsTheCode :
    decode (.opw 0xA141) = .ok (.xfer .data 0x41) ∧
    decode (.cmd8 0xFF) = .ok (.cmdSetDdram 0x7F) := by decide

theorem witness_DecoderAgreesWithTheMatchMaskTable :
    decodeOp 0xA1FF = .ok (.xfer .data 0xFF) ∧ decodeOp 0x3FFF = .ok (.moveTo 255 15) := by decide

theorem witness_CommandDecoderAgreesWithItsMatchMaskTable :
    decodeCmd 0x01 = .ok .cmdClear ∧ decodeCmd 0x02 = .ok (.cmdHome false) ∧
    decodeCmd 0x07 = .ok (.cmdEntry true true) ∧
    decodeCmd 0x08 = .ok (.cmdDisplay false false false) ∧
    decodeCmd 0x3F = .ok (.cmdFunction true true true 3) ∧
    decodeCmd 0x80 = .ok (.cmdSetDdram 0) ∧ decodeCmd 0xFF = .ok (.cmdSetDdram 0x7F) := by decide

theorem witness_OperandsAreTheirFields :
    decodeOp 0x10FF = .ok (.init 255) ∧ decodeOp 0x2000 = .ok (.wrch 0) ∧
    decodeOp 0x3FFF = .ok (.moveTo 255 15) ∧ decodeOp 0x7F00 = .ok (.clearRow 15) ∧
    decodeOp 0xA0FF = .ok (.xfer .command 0xFF) ∧ decodeOp 0x9000 = .ok .remain := by decide

theorem witness_ReservedWordsAreIllegalOperations :
    (presenting fresh 0xB000).bus = [] ∧ (presenting fresh 0xB000).host = [.word 0xB000] ∧
    decodeOp 0xB000 = .error .reservedOp ∧ decodeOp 0x0FFF = .error .reservedOp ∧
    decodeOp 0x1100 = .error .nonzeroField ∧ decodeOp 0x9800 = .error .nonzeroField ∧
    decodeOp 0x7001 = .error .nonzeroField ∧ decodeOp 0xA200 = .error .nonzeroField := by decide

theorem witness_TransferIsStrobeThenHandshake :
    1 ≤ last.params.pollLimit ∧ last.modePoll = false ∧
    1 ≤ stuck.params.pollLimit ∧ stuck.modePoll = true ∧ stuck.firstReady = none ∧
    (ready 0xE3 0 0 [true, true, false]).firstReady = some 2 := by decide

theorem witness_XferSendsOneRawByte :
    1 ≤ fresh.params.pollLimit ∧ fresh.inited = false ∧
    1 ≤ last.params.pollLimit ∧ last.inited = true ∧ last.timesOut = false ∧
    1 ≤ stuck.params.pollLimit ∧ stuck.inited = true ∧ stuck.timesOut = true := by decide

theorem witness_EveryStepKeepsTheTraceParsed_operation :
    1 ≤ (presenting last 0x2041).params.pollLimit ∧
    transferTrace (presenting last 0x2041).trace = some [] ∧ (presenting last 0x2041).bus = [] ∧
    step (presenting last 0x2041) = .next (stepped (presenting last 0x2041)) := ⟨by decide, rfl, rfl, rfl⟩

theorem witness_EveryStepKeepsTheTraceParsed_device :
    1 ≤ (after .homeTop last).params.pollLimit ∧
    transferTrace (after .homeTop last).trace = some [.xfer .command 0x80, .wait .short] ∧
    (after .homeTop last).bus ≠ [] ∧
    step (after .homeTop last) = .next (stepped (after .homeTop last)) :=
  ⟨by decide, by decide, by decide, rfl⟩

theorem witness_ResolveIsRowBasePlusColumn :
    (params 3).Legal ∧ (23 : Byte).toNat < 24 ∧ (resolve (params 3) 23 1).toNat = 0x57 ∧
    (resolve (params 3) 23 15).toNat = 0x17 := by decide

theorem witness_MoveToGoesToTheClampedPosition :
    1 ≤ fresh.params.pollLimit ∧ fresh.inited = false ∧
    1 ≤ stuck.params.pollLimit ∧ stuck.inited = true ∧ 24 ≤ (24 : Byte).toNat ∧
    (23 : Byte).toNat < 24 := by decide

theorem witness_HomesGoToTheRowStarts :
    1 ≤ fresh.params.pollLimit ∧ fresh.inited = false ∧
    1 ≤ stuck.params.pollLimit ∧ stuck.inited = true := by decide

theorem witness_AdvanceStepsWrapsOrSaturates :
    1 ≤ edge.params.pollLimit ∧ edge.curCol.toNat ≤ 23 ∧ edge.curCol.toNat ≤ 22 ∧
    1 ≤ last.params.pollLimit ∧ last.curCol.toNat = 23 ∧ last.modeWrap = true ∧
    last.curRow = 0 ∧ (ready 0x23 23 1).curCol.toNat = 23 ∧
    (ready 0x23 23 1).modeWrap = false := by decide

theorem witness_RemainCountsTheCellsLeft :
    fresh.inited = false ∧ last.inited = true ∧ last.CursorInRange := by decide

theorem witness_WrchWritesAndSteps :
    1 ≤ fresh.params.pollLimit ∧ fresh.CursorInRange ∧ fresh.inited = false ∧
    1 ≤ stuck.params.pollLimit ∧ stuck.CursorInRange ∧ stuck.inited = true ∧
    stuck.timesOut = true ∧
    edge.CursorInRange ∧ edge.timesOut = false ∧ edge.curCol.toNat ≤ 22 ∧
    last.CursorInRange ∧ last.timesOut = false ∧ last.curCol.toNat = 23 := by decide

theorem witness_RunOfWritesMovesTheCursor_in_the_row :
    1 ≤ edge.params.pollLimit ∧ edge.inited = true ∧ edge.CursorInRange ∧ edge.status = .ok ∧
    writeString [0x41] edge = .next (after (.wrch 0x41) edge) ∧
    (after (.wrch 0x41) edge).status = .ok ∧ edge.curCol.toNat + [0x41#8].length ≤ 23 :=
  ⟨by decide, rfl, by decide, rfl, rfl, by decide, by decide⟩

theorem witness_RunOfWritesMovesTheCursor_wrapping :
    1 ≤ last.params.pollLimit ∧ last.inited = true ∧ last.CursorInRange ∧ last.status = .ok ∧
    writeString [0x41] last = .next (after (.wrch 0x41) last) ∧
    (after (.wrch 0x41) last).status = .ok ∧ 24 ≤ last.curCol.toNat + [0x41#8].length ∧
    last.curRow = 0 ∧ last.modeWrap = true :=
  ⟨by decide, rfl, by decide, rfl, rfl, by decide, by decide, rfl, by decide⟩

theorem witness_RunOfWritesMovesTheCursor_pinned :
    1 ≤ (ready 0x63 23 1).params.pollLimit ∧ (ready 0x63 23 1).inited = true ∧
    (ready 0x63 23 1).CursorInRange ∧ (ready 0x63 23 1).status = .ok ∧
    writeString [0x41] (ready 0x63 23 1) = .next (after (.wrch 0x41) (ready 0x63 23 1)) ∧
    (after (.wrch 0x41) (ready 0x63 23 1)).status = .ok ∧
    24 ≤ (ready 0x63 23 1).curCol.toNat + [0x41#8].length ∧ (ready 0x63 23 1).curRow = 1 :=
  ⟨by decide, rfl, by decide, rfl, rfl, by decide, by decide, rfl⟩

theorem witness_WriteStringStopsAtTheFirstError :
    exec (.wrch 0x41) edge = .next (after (.wrch 0x41) edge) ∧
    (after (.wrch 0x41) edge).status = .ok ∧ (after (.wrch 0x41) stuck).status ≠ .ok ∧
    { edge with host := [.string [0x41, 0x42]] }.bus = [] ∧
    exec (.wrch 0x41) { edge with host := [.string [0x42]] } =
      .next (after (.wrch 0x41) { edge with host := [.string [0x42]] }) :=
  ⟨rfl, by decide, by decide, rfl, rfl⟩

theorem witness_ClearAllClearsThenHomes :
    1 ≤ fresh.params.pollLimit ∧ fresh.inited = false ∧
    1 ≤ last.params.pollLimit ∧ last.inited = true ∧ last.timesOut = false ∧
    1 ≤ stuck.params.pollLimit ∧ stuck.inited = true ∧ stuck.timesOut = true := by decide

theorem witness_ClearRowMakesTwentySevenTransfers :
    1 ≤ fresh.params.pollLimit ∧ fresh.inited = false ∧
    1 ≤ last.params.pollLimit ∧ last.inited = true ∧
    allReady (clearRowItems last.params last.modeWrap 0) last = true ∧
    allReady (clearRowItems last.params last.modeWrap 1) last = true := by decide +kernel

theorem witness_TogglePowerFlipsTheFlag :
    1 ≤ fresh.params.pollLimit ∧ fresh.inited = false ∧
    1 ≤ stuck.params.pollLimit ∧ stuck.inited = true ∧
    exec .togglePower stuck = .next (after .togglePower stuck) ∧
    exec .togglePower (after .togglePower stuck) =
      .next (after .togglePower (after .togglePower stuck)) :=
  ⟨by decide, rfl, by decide, rfl, rfl, rfl⟩

theorem witness_StatusCodesAndResponse :
    Status.code .illegalOperation = Status.code .illegalOperation ∧
    (after (.moveTo 24 0) last).resp.extractLsb' 8 3 = 2 ∧
    (after .remain last).resp.extractLsb' 0 8 = 25 := by decide

theorem witness_OperationsBeforeInitAreRejected :
    Instr.isHostOp (.wrch 0x41) = true ∧ (∀ mode, Instr.wrch 0x41 ≠ .init mode) ∧
    fresh.inited = false := ⟨by decide, nofun, rfl⟩

theorem witness_OnlyMoveToReportsInvalidPosition :
    Instr.isHostOp (.moveTo 24 0) = true ∧
    exec (.moveTo 24 0) last = .next (after (.moveTo 24 0) last) ∧
    (after (.moveTo 24 0) last).status = .invalidPosition ∧
    last.inited = true ∧ 24 ≤ (24 : Byte).toNat := ⟨by decide, rfl, by decide, rfl, by decide⟩

theorem witness_ErrorsFollowTheirPriority :
    (presenting fresh 0x4001).bus = [] ∧ (presenting fresh 0x4001).host = [.word 0x4001] ∧
    decodeOp 0x4001 = .error .nonzeroField ∧
    decodeOp 0x301E = .ok (.moveTo 30 0) ∧ (presenting fresh 0x301E).inited = false ∧
    decodeOp 0x3018 = .ok (.moveTo 24 0) ∧ (presenting last 0x3018).inited = true ∧
    24 ≤ (24 : Byte).toNat := by decide

theorem witness_ErrorsFollowTheirPriority_timeout :
    (presenting stuck 0x2041).bus = [] ∧ (presenting stuck 0x2041).host = .word 0x2041 :: [] ∧
    step (presenting stuck 0x2041) = .next (stepped (presenting stuck 0x2041)) ∧
    (stepped (presenting stuck 0x2041)).status = .hardwareTimeout :=
  ⟨rfl, rfl, rfl, by decide⟩

/-- The hypotheses of `TimeoutKeepsEarlierEffects` for one instruction and state. -/
def timesOutHere (i : Instr) (s : State) : Bool :=
  decide (1 ≤ s.params.pollLimit ∧ s.CursorInRange ∧ i.isHostOp = true ∧
    (after i s).status = .hardwareTimeout)

theorem witness_TimeoutKeepsEarlierEffects :
    timesOutHere (.xfer .data 0x41) stuck = true ∧ timesOutHere (.moveTo 23 1) stuck = true ∧
    timesOutHere .homeTop stuck = true ∧ timesOutHere .homeBot stuck = true ∧
    timesOutHere (.wrch 0x41) stuck = true ∧
    timesOutHere (.wrch 0x41) (ready 0xE3 23 0 [false, true, true, true]) = true ∧
    timesOutHere .clearAll stuck = true ∧ timesOutHere .togglePower stuck = true ∧
    exec (.xfer .data 0x41) stuck = .next (after (.xfer .data 0x41) stuck) :=
  ⟨by decide, by decide, by decide, by decide, by decide, by decide, by decide, by decide, rfl⟩

theorem witness_TimeoutKeepsEarlierEffects_clearRow :
    (∀ n ∈ [0, 1, 24, 25, 26],
      timesOutHere (.clearRow 0)
        (ready 0xE3 23 0 (List.replicate n false ++ [true, true, true])) = true) ∧
    exec (.clearRow 0) stuck = .next (after (.clearRow 0) stuck) :=
  ⟨by decide +kernel, rfl⟩

theorem witness_EarlyErrorsArePrecise :
    Instr.isHostOp (.moveTo 24 0) = true ∧
    exec (.moveTo 24 0) last = .next (after (.moveTo 24 0) last) ∧
    (after (.moveTo 24 0) last).status = .invalidPosition ∧
    exec (.moveTo 24 0) fresh = .next (after (.moveTo 24 0) fresh) ∧
    (after (.moveTo 24 0) fresh).status = .precallSequenceViolation ∧
    (presenting last 0xB000).bus = [] ∧ (presenting last 0xB000).host = .word 0xB000 :: [] ∧
    decodeOp 0xB000 = .error .reservedOp :=
  ⟨by decide, rfl, by decide, rfl, by decide, rfl, rfl, by decide⟩

theorem witness_FlagsAndModeHaveTheirWriters :
    exec (.init 0xFF) fresh = .next (after (.init 0xFF) fresh) ∧
    exec .togglePower last = .next (after .togglePower last) ∧ last.inited = true ∧
    exec .togglePower fresh = .next (after .togglePower fresh) ∧ fresh.inited = false ∧
    exec (.clearRow 1) last = .next (after (.clearRow 1) last) ∧
    (∀ mode, Instr.clearRow 1 ≠ .init mode) ∧ Instr.clearRow 1 ≠ .togglePower ∧
    exec (.clearRow 1) fresh = .next (after (.clearRow 1) fresh) ∧
    Instr.isHostOp (.clearRow 1) = true :=
  ⟨rfl, rfl, rfl, rfl, rfl, rfl, nofun, nofun, rfl, by decide⟩

theorem witness_HostOperationsLeaveTheDeviceAlone :
    Instr.isHostOp (.clearRow 1) = true ∧
    exec (.clearRow 1) last = .next (after (.clearRow 1) last) ∧
    Instr.isHostOp .remain = true ∧ exec .remain last = .next (after .remain last) ∧
    Instr.isHostOp .togglePower = true ∧
    exec .togglePower stuck = .next (after .togglePower stuck) :=
  ⟨by decide, rfl, by decide, rfl, by decide, rfl⟩

theorem witness_DeviceCommandsLeaveTheBlockAlone :
    Instr.isCommand (.cmdHome true) = true ∧
    exec (.cmdHome true) last = .next (after (.cmdHome true) last) ∧
    Instr.cmdHome true ≠ .cmdClear ∧ Instr.isCommand .cmdClear = true ∧
    exec .cmdClear last = .next (after .cmdClear last) :=
  ⟨by decide, rfl, nofun, by decide, rfl⟩

theorem witness_ResultIsZeroButForRemain :
    Instr.isHostOp (.wrch 0x41) = true ∧ exec (.wrch 0x41) last = .next (after (.wrch 0x41) last) ∧
    Instr.wrch 0x41 ≠ .remain ∧ Instr.isHostOp .remain = true ∧
    exec .remain fresh = .next (after .remain fresh) ∧ (after .remain fresh).status ≠ .ok :=
  ⟨by decide, rfl, nofun, by decide, rfl, by decide⟩

theorem witness_ClearIsTheLoopOfWrites :
    (Memory.filled 0x41).wf = true ∧ ((Memory.filled 0x41).write 127 0x42).wf = true := by
  decide +kernel

theorem witness_DataByteIsStoredAtTheCounter :
    { last with bus := [dataItem 0x41] }.bus = dataItem 0x41 :: [] := rfl

theorem witness_DoubtfulByteIsTakenOrLost :
    { last with bus := [⟨.data, 0x41, false⟩] }.bus = (dataItem 0x41).doubtful :: [] ∧
    (after .togglePower stuck).bus = (cmdItem 0x08).doubtful :: [] := by decide

theorem witness_CommandsWithoutMeaningLeaveTheDeviceUnspecified :
    { last with bus := [cmdItem 0x1F] }.bus = cmdItem 0x1F :: [] ∧
    decodeCmd 0x1F = .error .shiftCommand ∧ decodeCmd 0x40 = .error .cgramCommand ∧
    decodeCmd 0x00 = .error .noCommand := by decide

theorem witness_StepRunsTheDecodedInstruction :
    (presenting last 0x3105).bus = [] ∧ (presenting last 0x3105).host = .word 0x3105 :: [] ∧
    decodeOp 0x3105 = .ok (.moveTo 5 1) ∧
    { last with bus := [cmdItem 0xC5] }.bus = cmdItem 0xC5 :: [] ∧
    decodeCmd 0xC5 = .ok (.cmdSetDdram 0x45) ∧ last.bus = [] ∧ last.host = [] := by decide

theorem witness_EveryStepKeepsWellFormedness :
    (presenting last 0x2041).Wf ∧
    step (presenting last 0x2041) = .next (stepped (presenting last 0x2041)) := ⟨by decide, rfl⟩

theorem witness_BlockIsIndependentOfTheDevice :
    Instr.isHostOp (.wrch 0x41) = true ∧ exec (.wrch 0x41) stuck = .next (after (.wrch 0x41) stuck) :=
  ⟨by decide, rfl⟩

theorem witness_TwoLineBitHasNoOtherEffect :
    Instr.isHostOp (.clearRow 0) = true ∧ (∀ mode, Instr.clearRow 0 ≠ .init mode) ∧
    exec (.clearRow 0) last = .next (after (.clearRow 0) last) := ⟨by decide, nofun, rfl⟩

theorem witness_InitBringsAgreement :
    fresh.params.rowBase0 = 0 ∧ (0x23 : Byte).getLsbD 5 = true ∧
    exec (.init 0x23) fresh = .next (after (.init 0x23) fresh) := ⟨rfl, by decide, rfl⟩

theorem witness_AgreementIsKept_operation :
    last.params.rowBase0 = 0 ∧ last.Synced ∧ Instr.isHostOp (.wrch 0x41) = true ∧
    (∀ kind byte, Instr.wrch 0x41 ≠ .xfer kind byte) ∧
    (∀ mode, Instr.wrch 0x41 = .init mode → mode.getLsbD 5 = true) ∧
    exec (.wrch 0x41) last = .next (after (.wrch 0x41) last) ∧
    (after (.wrch 0x41) last).status ≠ .hardwareTimeout :=
  ⟨rfl, by decide, by decide, nofun, nofun, rfl, by decide⟩

theorem witness_AgreementIsKept_device :
    (after .homeTop last).Synced ∧ (after .homeTop last).bus ≠ [] ∧
    step (after .homeTop last) = .next (stepped (after .homeTop last)) :=
  ⟨by decide, by decide, rfl⟩

theorem witness_RunsAfterInitAgree :
    fresh.params.rowBase0 = 0 ∧ (0x63 : Byte).getLsbD 5 = true ∧
    (∀ i ∈ [Instr.moveTo 23 0, .wrch 0x41], i.isHostOp = true ∧
      (∀ kind byte, i ≠ .xfer kind byte) ∧ ∀ m, i = .init m → m.getLsbD 5 = true) ∧
    runOps [.init 0x63, .moveTo 23 0, .wrch 0x41] fresh =
      some (after (.wrch 0x41) (after (.moveTo 23 0) (after (.init 0x63) fresh))) :=
  ⟨rfl, by decide, by
    intro i hi
    simp only [List.mem_cons, List.not_mem_nil, or_false] at hi
    rcases hi with rfl | rfl
    · exact ⟨by decide, nofun, nofun⟩
    · exact ⟨by decide, nofun, nofun⟩, by decide +kernel⟩

theorem witness_WrchLandsOnTheCursorCell :
    1 ≤ last.params.pollLimit ∧ last.params.Legal ∧ last.Synced ∧
    exec (.wrch 0x41) last = .next (after (.wrch 0x41) last) ∧
    (after (.wrch 0x41) last).status = .ok := ⟨by decide, by decide, by decide, rfl, by decide⟩

theorem witness_ClearRowBlanksItsRowOnly :
    1 ≤ last.params.pollLimit ∧ last.params.Legal ∧ last.Synced ∧
    exec (.clearRow 1) last = .next (after (.clearRow 1) last) ∧
    (after (.clearRow 1) last).status = .ok :=
  ⟨by decide, by decide, by decide, rfl, by decide +kernel⟩

theorem witness_RawDisplayControlMakesTheFlagStale :
    1 ≤ last.params.pollLimit ∧ last.inited = true ∧
    exec (.xfer .command (cmdDisplayByte false false false)) last =
      .next (after (.xfer .command (cmdDisplayByte false false false)) last) ∧
    (after (.xfer .command (cmdDisplayByte false false false)) last).status = .ok ∧
    false ≠ last.pwrOn ∧
    exec .togglePower (after (.xfer .command (cmdDisplayByte false false false)) last) =
      .next (after .togglePower
        (after (.xfer .command (cmdDisplayByte false false false)) last)) ∧
    (after .togglePower
      (after (.xfer .command (cmdDisplayByte false false false)) last)).status = .ok :=
  ⟨by decide, rfl, rfl, by decide, by decide, rfl, by decide⟩

theorem witness_RawAddressMovesOnlyTheDevice :
    1 ≤ last.params.pollLimit ∧ last.inited = true ∧
    exec (.xfer .command (cmdSetDdramByte 0x7F)) last =
      .next (after (.xfer .command (cmdSetDdramByte 0x7F)) last) ∧
    (after (.xfer .command (cmdSetDdramByte 0x7F)) last).status = .ok ∧
    (23 : Byte).toNat < 24 ∧
    exec (.moveTo 23 1) (after (.xfer .command (cmdSetDdramByte 0x7F)) last) =
      .next (after (.moveTo 23 1) (after (.xfer .command (cmdSetDdramByte 0x7F)) last)) ∧
    (after (.moveTo 23 1) (after (.xfer .command (cmdSetDdramByte 0x7F)) last)).status = .ok :=
  ⟨by decide, rfl, rfl, by decide, by decide, rfl, by decide⟩

theorem witness_TimedOutToggleMayLeaveTheFlagStale :
    stuck.inited = true ∧ exec .togglePower stuck = .next (after .togglePower stuck) ∧
    (after .togglePower stuck).status = .hardwareTimeout ∧ ¬ stuck.StaleToggle :=
  ⟨rfl, rfl, by decide, by decide⟩

/-- `edge` with a device that steps down. -/
def edgeDown : State := { edge with device := { edge.device with dir := .dec } }

theorem witness_DecrementDirectionSeparatesTheCursor :
    1 ≤ edgeDown.params.pollLimit ∧ edgeDown.inited = true ∧ edgeDown.curCol.toNat ≤ 22 ∧
    edgeDown.drained.device.dir = .dec ∧ edgeDown.drained.device.ac = edgeDown.cursorAddress ∧
    exec (.wrch 0x41) edgeDown = .next (after (.wrch 0x41) edgeDown) ∧
    (after (.wrch 0x41) edgeDown).status = .ok :=
  ⟨by decide, rfl, by decide, by decide, by decide, rfl, by decide⟩

theorem witness_NamedOperationsSendFiveCommands :
    Instr.isHostOp (.init 0xFF) = true ∧ (∀ kind byte, Instr.init 0xFF ≠ .xfer kind byte) ∧
    exec (.init 0xFF) fresh = .next (after (.init 0xFF) fresh) := ⟨by decide, nofun, rfl⟩

theorem witness_LeastBlockingTimes :
    Instr.isHostOp (.wrch 0x41) = true ∧ last.CursorInRange ∧
    exec (.wrch 0x41) last = .next (after (.wrch 0x41) last) ∧
    last.params.tShort = 43 ∧ last.params.tLong = 1500 ∧
    (∀ mode, Instr.wrch 0x41 ≠ .init mode) ∧ last.inited = true ∧ last.modePoll = false ∧
    stuck.CursorInRange ∧ exec (.wrch 0x41) stuck = .next (after (.wrch 0x41) stuck) ∧
    stuck.modePoll = true ∧ fresh.CursorInRange ∧
    exec (.init 0xE3) fresh = .next (after (.init 0xE3) fresh) :=
  ⟨by decide, by decide, rfl, rfl, rfl, nofun, rfl, by decide, by decide, rfl, by decide,
    by decide, rfl⟩

end Sys2Proof.Tests
end

section
/-! SUPPORT. What a step is about when the device has nothing left to take: one equation per request
of the host (10_state.md R11; 30_encoding.md R70, R76, R89). With a byte on its way it is
`step_device`. -/

namespace Sys2Proof.Machine

section
variable {s : State} {rest : List Request} (hb : s.bus = [])
include hb

theorem step_idle (hh : s.host = []) : step s = .next s := by
  simp only [step, fetch, hb, fetchHost, hh]

theorem step_word {w : OpWord} {i : Instr} (hh : s.host = .word w :: rest)
    (hd : decodeOp w = .ok i) : step s = exec i { s with host := rest } := by
  simp only [step, fetch, hb, fetchHost, hh, decode, hd]

theorem step_reserved {w : OpWord} {e : DecodeError} (hh : s.host = .word w :: rest)
    (hd : decodeOp w = .error e) :
    step s = .next (raise .illegalOperation { s with host := rest }) := by
  simp only [step, fetch, hb, fetchHost, hh, decode, hd]

theorem step_stringDone (hh : s.host = .string [] :: rest) :
    step s = .next { s with host := rest } := by
  simp only [step, fetch, hb, fetchHost, hh]

theorem step_char {c : Byte} {cs : List Byte} (hh : s.host = .string (c :: cs) :: rest) :
    step s = mapNext settleString (exec (.wrch c) { s with host := .string cs :: rest }) := by
  simp only [step, fetch, hb, fetchHost, hh]

end

/-- A command byte that the device is sure to take runs its instruction. -/
theorem step_command {s : State} {b : Byte} {rest : List BusItem} {i : Instr}
    (hb : s.bus = cmdItem b :: rest) (hd : decodeCmd b = .ok i) :
    step s = exec i { s with bus := rest } := by
  simp only [step, fetch, hb, fetchDevice, fetchTaken, cmdItem, decode, hd, if_true]

theorem withFetchWord_word (s : State) (w : OpWord) :
    s.withFetchWord 16 w.toNat = s.presentWord w := by
  simp [State.withFetchWord]

theorem withFetchWord_command (s : State) (b : Byte) :
    s.withFetchWord 8 b.toNat = s.presentCommand b := by
  simp [State.withFetchWord]

/-- Settles O42: a placed instruction is the host's first word, or the first byte on the bus. -/
theorem stepRunsTheDecodedInstruction : Obligations.StepRunsTheDecodedInstruction := by
  refine ⟨fun _ _ _ _ hb hh hd => step_word hb hh hd, fun _ _ _ _ hb hd => step_command hb hd,
    fun _ hb hh => step_idle hb hh, fun s w i hd => ?_, fun s b i hd => ?_⟩
  · rw [withFetchWord_word]
    exact step_word (s := s.presentWord w) rfl rfl hd
  · rw [withFetchWord_command]
    exact step_command (s := s.presentCommand b) rfl hd

/-- Settles O41: the values of R27 as `State.reset` writes them, and a step that waits. -/
theorem resetLeavesTheBlockUninitialized : Obligations.ResetLeavesTheBlockUninitialized :=
  ⟨rfl, rfl, rfl, rfl, rfl, rfl, rfl, rfl, rfl, step_idle rfl rfl⟩

end Sys2Proof.Machine
end

section
/-! SUPPORT. What a host operation does before `INIT`, and the two ends it can have; shared by the
statements about the state (10_state.md R15 to R19; 60_exceptions.md R183, R189). -/

namespace Sys2Proof.Machine

@[simp] theorem requireReady_ready {s : State} (h : s.inited = true) : requireReady s = .on s := by
  simp [requireReady, h]

@[simp] theorem requireReady_uninitialized {s : State} (h : s.inited = false) :
    requireReady s = .raised .precallSequenceViolation s := by
  simp [requireReady, h]

/-- The gate of R183: before `INIT` every other host operation ends with the error and does nothing
else. -/
theorem exec_rejected {i : Instr} {s : State} (hi : i.isHostOp = true) (hn : ∀ m, i ≠ .init m)
    (h : s.inited = false) : exec i s = .next (raise .precallSequenceViolation s) := by
  cases i with
  | init m => exact absurd rfl (hn m)
  | wrch d => simp [exec, execWrch, h, Flow.andThen, Flow.finish]
  | moveTo c r => simp [exec, execMoveTo, h, Flow.andThen, Flow.finish]
  | homeTop => simp [exec, execHomeTop, h, Flow.andThen, Flow.finish]
  | homeBot => simp [exec, execHomeBot, h, Flow.andThen, Flow.finish]
  | clearAll => simp [exec, execClearAll, h, Flow.andThen, Flow.finish]
  | clearRow r => simp [exec, execClearRow, h, Flow.andThen, Flow.finish]
  | togglePower => simp [exec, execTogglePower, h, Flow.andThen, Flow.finish]
  | remain => simp [exec, execRemain, h]
  | xfer k b => simp [exec, execXfer, h, Flow.andThen, Flow.finish]
  | _ => cases hi

/-- `INIT` stands apart from the operations that `Kept.exec_all` speaks of. -/
theorem init_or_not (i : Instr) : (∃ m, i = .init m) ∨ ∀ m, i ≠ .init m := by
  cases i with
  | init m => exact .inl ⟨m, rfl⟩
  | _ => exact .inr nofun

/-- `INIT` ends in Ready after its sequence, with the display on and the cursor at (0,0) (R150). -/
theorem exec_init (m : Byte) (s : State) :
    exec (.init m) s = .next { initSequence { s with mode := m } with
      pwrOn := true, inited := true, curCol := 0, curRow := 0, status := .ok, result := 0 } := rfl

/-- `REMAIN` in a Ready block answers the count (R139). -/
theorem exec_remain_ready {s : State} (h : s.inited = true) :
    exec .remain s = .next (complete (remainingCapacity s) s) := by
  simp [exec, execRemain, h]

/-- Whether or not it times out, a transfer inside an operation leaves the state of the transfer. -/
@[simp] theorem tryTransfer_state (k : Kind) (b : Byte) (s : State) :
    (tryTransfer k b s).state = (transfer k b false s).2 := by
  unfold tryTransfer
  split <;> rfl

/-- The relation that holds between any two states is kept, so that `Kept.exec_all` says how an
operation ends. -/
theorem kept_true : Kept (fun _ _ => True) (fun _ _ => True) :=
  ⟨fun _ => trivial, fun _ _ => trivial, fun _ _ _ _ _ => trivial, fun _ _ _ => trivial⟩

/-- `RESULT` after an operation: a count only from a `REMAIN` that ends without an error (R19,
R189). -/
theorem exec_result_zero {i : Instr} {s t : State} (hi : i.isHostOp = true)
    (he : exec i s = .next t) (h : i ≠ .remain ∨ t.status ≠ .ok) : t.result = 0 := by
  rcases init_or_not i with ⟨m, rfl⟩ | hn
  · cases he
    rfl
  · obtain ⟨u, st, v, -, rfl, hv⟩ := kept_true.exec_all (fun _ => trivial) hi hn he
    exact hv h

/-- Settles O35: the end of an operation writes a zero, but for the count of `REMAIN`. -/
theorem resultIsZeroButForRemain : Obligations.ResultIsZeroButForRemain :=
  fun _ _ _ hi he h => exec_result_zero hi he h

end Sys2Proof.Machine
end

section
/-! SUPPORT. What a host operation writes and what it leaves (10_state.md R12, R15, R16, R18): the
frame that every part of an operation keeps, and the statements about writers that follow. -/

namespace Sys2Proof.Machine

/-- What a host operation leaves alone between its first and its last line: `INITED` and `MODE`, the
host's requests, the parameters and the device; trace and bus are only added to. -/
structure Framed (s t : State) : Prop where
  inited : t.inited = s.inited
  mode : t.mode = s.mode
  host : t.host = s.host
  params : t.params = s.params
  device : t.device = s.device
  trace : s.trace <+: t.trace
  bus : s.bus <+: t.bus

theorem transfer_trace_prefix (k : Kind) (b : Byte) (f : Bool) (s : State) :
    s.trace <+: (transfer k b f s).2.trace := by
  obtain ⟨bs, ans, d, -, -, h⟩ := transfer_spec k b f s
  rw [h, List.append_assoc]
  exact List.prefix_append _ _

theorem kept_framed : Kept (fun _ _ => True) Framed where
  refl s := ⟨rfl, rfl, rfl, rfl, rfl, List.prefix_rfl, List.prefix_rfl⟩
  trans h h' := ⟨h'.inited.trans h.inited, h'.mode.trans h.mode, h'.host.trans h.host,
    h'.params.trans h.params, h'.device.trans h.device, h.trace.trans h'.trace,
    h.bus.trans h'.bus⟩
  transfer k b f s _ := ⟨by simp, by simp, by simp, by simp, by simp,
    transfer_trace_prefix k b f s, by simp⟩
  cursor s c r := ⟨rfl, rfl, rfl, rfl, rfl, List.prefix_rfl, List.prefix_rfl⟩

theorem initSequence_framed (s : State) : Framed s (initSequence s) :=
  kept_framed.trans (t := s.delay .pwr)
    ⟨rfl, rfl, rfl, rfl, rfl, List.prefix_append _ _, List.prefix_rfl⟩
    (kept_framed.initSequence (fun _ _ _ => trivial) (fun _ _ _ => trivial) trivial
      (fun _ => trivial) s)

/-- Every host operation but `INIT` keeps the frame. -/
theorem exec_framed {i : Instr} {s t : State} (hi : i.isHostOp = true) (hn : ∀ m, i ≠ .init m)
    (he : exec i s = .next t) : Framed s t := by
  obtain ⟨u, st, v, hu, rfl, -⟩ := kept_framed.exec_all
    (fun _ => ⟨rfl, rfl, rfl, rfl, rfl, List.prefix_rfl, List.prefix_rfl⟩) hi hn he
  exact ⟨hu.inited, hu.mode, hu.host, hu.params, hu.device, hu.trace, hu.bus⟩

theorem kept_pwrOn : Kept (fun _ _ => True) (fun s t => t.pwrOn = s.pwrOn) where
  refl _ := rfl
  trans h h' := h'.trans h
  transfer k b f s _ := transfer_pwrOn k b f s
  cursor _ _ _ := rfl

/-- `PWR_ON` has no writer but `INIT` and `TOGGLE_POWER` (R16). -/
theorem exec_pwrOn {i : Instr} {s t : State} (hi : i.isHostOp = true) (hn : ∀ m, i ≠ .init m)
    (ht : i ≠ .togglePower) (he : exec i s = .next t) : t.pwrOn = s.pwrOn := by
  obtain ⟨u, st, v, hu, rfl, -⟩ := kept_pwrOn.exec_all (fun h => absurd h ht) hi hn he
  exact hu

/-- A gated operation of a single part, in a Ready block, leaves what that part leaves, but for the
reply. -/
theorem gated_eq {s t : State} {k : State → Flow} (h : s.inited = true)
    (he : (.next ((requireReady s).andThen k).finish : Result) = .next t) :
    ∃ st, t = { (k s).state with status := st, result := 0 } := by
  rw [requireReady_ready h] at he
  cases he
  exact (k s).finish_eq

@[simp] theorem togglePower_pwrOn (s : State) : (togglePower s).state.pwrOn = !s.pwrOn := by
  simp [togglePower]

/-- Settles O32: the frame for the operations, `exec_command` for the device, and the three writers
by what they do. -/
theorem flagsAndModeHaveTheirWriters : Obligations.FlagsAndModeHaveTheirWriters := by
  intro i s t he
  refine ⟨fun hn => ?_, fun hn hi hs => ?_, ?_, ?_, ?_, fun hn ht => ?_⟩
  · cases hi : i.isHostOp with
    | true =>
      have h := exec_framed hi hn he
      exact ⟨h.mode, h.inited⟩
    | false =>
      obtain ⟨d, rfl⟩ := exec_command hi he
      exact ⟨rfl, rfl⟩
  · rw [exec_rejected hi hn hs] at he
    cases he
    rfl
  · rintro m rfl
    rw [exec_init] at he
    cases he
    exact ⟨(initSequence_framed _).mode, rfl, rfl⟩
  · rintro rfl hs
    obtain ⟨st, rfl⟩ := gated_eq hs he
    exact togglePower_pwrOn s
  · rintro rfl hs
    rw [exec_rejected (i := .togglePower) rfl nofun hs] at he
    cases he
    rfl
  · cases hi : i.isHostOp with
    | true => exact exec_pwrOn hi hn ht he
    | false =>
      obtain ⟨d, rfl⟩ := exec_command hi he
      rfl

/-- The operations that the table of R12 does not name as writers of the cursor. -/
theorem exec_cursor {i : Instr} {s t : State}
    (hi : i = .togglePower ∨ i = .remain ∨ ∃ kind byte, i = .xfer kind byte)
    (he : exec i s = .next t) : t.curCol = s.curCol ∧ t.curRow = s.curRow := by
  cases hs : s.inited with
  | false =>
    have hhost : i.isHostOp = true := by rcases hi with rfl | rfl | ⟨k, b, rfl⟩ <;> rfl
    have hn : ∀ m, i ≠ .init m := by rintro m rfl; simp at hi
    rw [exec_rejected hhost hn hs] at he
    cases he
    exact ⟨rfl, rfl⟩
  | true =>
    rcases hi with rfl | rfl | ⟨k, b, rfl⟩
    · obtain ⟨st, rfl⟩ := gated_eq hs he
      simp [togglePower]
    · rw [exec_remain_ready hs] at he
      cases he
      exact ⟨rfl, rfl⟩
    · obtain ⟨st, rfl⟩ := gated_eq hs he
      simp

theorem exec_remain_frame {s t : State} (he : exec .remain s = .next t) :
    t = { s with status := t.status, result := t.result } := by
  rcases Bool.dichotomy s.inited with hs | hs
  · rw [exec_rejected (i := .remain) rfl nofun hs] at he
    cases he
    rfl
  · rw [exec_remain_ready hs] at he
    cases he
    rfl

/-- What every host operation leaves alone, `INIT` included: further requests, parameters, device;
the record of the pins and the bytes sent only grow. -/
theorem exec_host_frame {i : Instr} {s t : State} (hi : i.isHostOp = true)
    (he : exec i s = .next t) :
    t.host = s.host ∧ t.params = s.params ∧ t.device = s.device ∧ s.trace <+: t.trace ∧
      s.bus <+: t.bus := by
  rcases init_or_not i with ⟨m, rfl⟩ | hn
  · rw [exec_init] at he
    cases he
    have h := initSequence_framed { s with mode := m }
    exact ⟨h.host, h.params, h.device, h.trace, h.bus⟩
  · have h := exec_framed hi hn he
    exact ⟨h.host, h.params, h.device, h.trace, h.bus⟩

/-- Settles O33: the frame of every operation, and the cursor and `REMAIN` by
what these operations do. -/
theorem hostOperationsLeaveTheDeviceAlone : Obligations.HostOperationsLeaveTheDeviceAlone := by
  intro i s t hi he
  obtain ⟨hhost, hparams, hdevice, ⟨evs, htrace⟩, ⟨xs, hbus⟩⟩ := exec_host_frame hi he
  refine ⟨hhost, hparams, hdevice, fun a => by rw [hdevice], ⟨evs, htrace.symm⟩,
    ⟨xs, hbus.symm⟩, fun h => exec_cursor h he, ?_⟩
  rintro rfl
  exact exec_remain_frame he

end Sys2Proof.Machine
end

section
/-! SUPPORT. Well-formedness (10_state.md R17, R19, R21, R22): the invariant of a Ready block while
an operation runs, kept by each part of an operation and so by every operation; then the device,
which writes only itself; then the step. -/

namespace Sys2Proof.Machine

/-- What holds all through an operation of a Ready block: the invariant `Wf` without the reply,
which only the end of the operation writes. -/
structure State.Running (s : State) : Prop where
  inited : s.inited = true
  col : s.curCol.toNat ≤ Config.lastCol
  rest : s.PinsAtRest
  width : s.pinDb.fits s.modeBus8 = true
  ddram : s.device.ddram.wf = true

theorem State.Wf.running {s : State} (h : s.Wf) (hi : s.inited = true) : s.Running := by
  obtain ⟨hcol, hrest, hwidth, -, hmem⟩ := h
  exact ⟨hi, hcol hi, hrest, hwidth.1 hi, hmem⟩

theorem State.Wf.ddram {s : State} (h : s.Wf) : s.device.ddram.wf = true := by
  obtain ⟨-, -, -, -, hmem⟩ := h
  exact hmem

theorem State.Running.wf {s : State} (h : s.Running) (hr : s.ReplyLegal) : s.Wf :=
  ⟨fun _ => h.col, h.rest, ⟨fun _ => h.width, fun hi => by simp [h.inited] at hi⟩, hr, h.ddram⟩

/-- Every transfer leaves the pins at rest, from whatever state (R22). -/
theorem transfer_pinsAtRest (k : Kind) (b : Byte) (f : Bool) (s : State) :
    (transfer k b f s).2.PinsAtRest :=
  ⟨transfer_pinE k b f s, transfer_pinRw k b f s, (transfer_pins k b f s).2⟩

/-- Every transfer leaves the data pins as wide as the bus, from whatever state (R21). -/
theorem transfer_width (k : Kind) (b : Byte) (f : Bool) (s : State) :
    (transfer k b f s).2.pinDb.fits (transfer k b f s).2.modeBus8 = true := by
  rw [State.modeBus8, transfer_mode]
  exact (transfer_pins k b f s).1

namespace State.Running

theorem transfer {s : State} (h : s.Running) (k : Kind) (b : Byte) (f : Bool) :
    (Machine.transfer k b f s).2.Running where
  inited := by simp [h.inited]
  col := by simpa using h.col
  rest := transfer_pinsAtRest k b f s
  width := transfer_width k b f s
  ddram := by simpa using h.ddram

theorem setCursor {s : State} (h : s.Running) {c : BitVec 5} (hc : c.toNat ≤ Config.lastCol)
    (r : BitVec 1) : (s.setCursor c r).Running :=
  ⟨h.inited, hc, h.rest, h.width, h.ddram⟩

theorem andThen {f : Flow} {k : State → Flow} (h : f.state.Running)
    (hk : ∀ u : State, u.Running → (k u).state.Running) : (f.andThen k).state.Running := by
  cases f with
  | on u => exact hk u h
  | raised err u => exact h

theorem tryTransfer {s : State} (h : s.Running) (k : Kind) (b : Byte) :
    (Machine.tryTransfer k b s).state.Running := by
  rw [tryTransfer_state]
  exact h.transfer k b false

/-- `move_to` rejects a column off the display before it writes the cursor (R132). -/
theorem moveTo {s : State} (h : s.Running) (c : Byte) (r : Nibble) :
    (Machine.moveTo c r s).state.Running := by
  unfold Machine.moveTo
  split
  · exact h
  · next hc =>
    refine (h.setCursor ?_ _).tryTransfer _ _
    simp only [Config.lastCol, Config.cols, BitVec.toNat_setWidth] at hc ⊢
    omega

/-- The cursor steps only before the last column (R136). -/
theorem advance {s : State} (h : s.Running) : (advanceAfterWrite s).state.Running := by
  unfold advanceAfterWrite
  split
  · next hc =>
    have hone : (1 : BitVec 5).toNat = 1 := rfl
    refine h.setCursor ?_ _
    simp only [Config.lastCol, Config.cols, BitVec.toNat_add, hone] at hc ⊢
    omega
  · split <;> exact h.moveTo _ _

theorem spaces {s : State} (h : s.Running) (n : Nat) : (writeSpaces n s).state.Running := by
  induction n generalizing s with
  | zero => exact h
  | succ n ih =>
    exact andThen (andThen (h.tryTransfer _ _) fun _ hu => hu.advance) fun _ hu => ih hu

theorem finish {f : Flow} (h : f.state.Running) : f.finish.Running := by
  obtain ⟨st, hst⟩ := f.finish_eq
  rw [hst]
  exact ⟨h.inited, h.col, h.rest, h.width, h.ddram⟩

/-- Every operation of a Ready block but `INIT` keeps it so. -/
theorem exec {i : Instr} {s t : State} (h : s.Running) (hi : i.isHostOp = true)
    (hn : ∀ m, i ≠ .init m) (he : Machine.exec i s = .next t) : t.Running := by
  have hgate : (requireReady s).state.Running := by simpa [h.inited] using h
  cases i with
  | init m => exact absurd rfl (hn m)
  | wrch d =>
    cases he
    exact finish (andThen (andThen hgate fun _ hu => hu.tryTransfer _ _) fun _ hu => hu.advance)
  | moveTo c r =>
    cases he
    exact finish (andThen hgate fun _ hu => hu.moveTo c r)
  | homeTop =>
    cases he
    exact finish (andThen hgate fun _ hu => hu.moveTo 0 0)
  | homeBot =>
    cases he
    exact finish (andThen hgate fun _ hu => hu.moveTo 0 1)
  | clearAll =>
    cases he
    exact finish (andThen (andThen hgate fun _ hu => hu.tryTransfer _ _)
      fun _ hu => hu.setCursor (by decide) 0)
  | clearRow r =>
    cases he
    exact finish (andThen (andThen (andThen hgate fun _ hu => hu.moveTo 0 _)
      fun _ hu => hu.spaces _) fun _ hu => hu.moveTo 0 _)
  | togglePower =>
    cases he
    refine finish (andThen hgate fun u hu => ?_)
    have hflip : State.Running { u with pwrOn := !u.pwrOn } :=
      ⟨hu.inited, hu.col, hu.rest, hu.width, hu.ddram⟩
    exact hflip.tryTransfer _ _
  | remain =>
    rw [exec_remain_ready h.inited] at he
    cases he
    exact ⟨h.inited, h.col, h.rest, h.width, h.ddram⟩
  | xfer k b =>
    cases he
    exact finish (andThen hgate fun _ hu => hu.tryTransfer k b)
  | _ => cases hi

end State.Running

/-- The count of `REMAIN` is at most 48 with the cursor on the display (R139). -/
theorem remainingCapacity_le {s : State} (h : s.curCol.toNat ≤ Config.lastCol) :
    (remainingCapacity s).toNat ≤ Config.capacity := by
  unfold remainingCapacity
  split <;>
  · simp only [Config.lastCol, Config.capacity, Config.cols, Config.rows, colOperand,
      BitVec.toNat_sub, BitVec.toNat_setWidth, BitVec.toNat_ofNat] at h ⊢
    omega

/-- The reply of an operation that a Ready block runs is legal (R19). -/
theorem State.Running.reply {i : Instr} {s t : State} (h : s.Running) (hi : i.isHostOp = true)
    (he : Machine.exec i s = .next t) : t.ReplyLegal := by
  refine ⟨?_, fun herr => exec_result_zero hi he (.inr herr)⟩
  by_cases hr : i = .remain
  · subst hr
    rw [exec_remain_ready h.inited] at he
    cases he
    exact remainingCapacity_le h.col
  · simp [exec_result_zero hi he (.inl hr)]

theorem initSequence_pinsAtRest (s : State) : (initSequence s).PinsAtRest :=
  transfer_pinsAtRest ..

theorem initSequence_width (s : State) :
    (initSequence s).pinDb.fits (initSequence s).modeBus8 = true :=
  transfer_width ..

/-- `INIT` puts the block in its invariant from every state in which the memory is (R150). -/
theorem execInit_running {m : Byte} {s t : State} (h : s.device.ddram.wf = true)
    (he : exec (.init m) s = .next t) : t.Running := by
  have hdevice := (initSequence_framed { s with mode := m }).device
  rw [exec_init] at he
  cases he
  exact ⟨rfl, Nat.zero_le _, initSequence_pinsAtRest _, initSequence_width _,
    (congrArg (fun d => d.ddram.wf) hdevice).trans h⟩

theorem State.Wf.raise {s : State} (h : s.Wf) (err : Status) : (Machine.raise err s).Wf := by
  obtain ⟨hcol, hrest, hwidth, -, hmem⟩ := h
  exact ⟨hcol, hrest, hwidth, ⟨by simp, fun _ => rfl⟩, hmem⟩

theorem State.Wf.setDevice {s : State} (h : s.Wf) {d : Device} (hd : d.ddram.wf = true) :
    (s.setDevice d).Wf := by
  obtain ⟨hcol, hrest, hwidth, hreply, -⟩ := h
  exact ⟨hcol, hrest, hwidth, hreply, hd⟩

theorem exec_command_wf {i : Instr} {s t : State} (h : s.Wf) (hi : i.isHostOp = false)
    (he : exec i s = .next t) : t.Wf := by
  cases i with
  | cmdClear => cases he; exact h.setDevice (Memory.wf_filled _)
  | cmdHome x => cases he; exact h.setDevice h.ddram
  | cmdEntry inc shift => cases he; exact h.setDevice h.ddram
  | cmdDisplay on cursor blink => cases he; exact h.setDevice h.ddram
  | cmdFunction bus8 two font11 x => cases he; exact h.setDevice h.ddram
  | cmdSetDdram a => cases he; exact h.setDevice h.ddram
  | _ => cases hi

/-- Every instruction keeps the machine well formed: rejected before `INIT`, run by a Ready block,
or a command of the device. -/
theorem exec_wf {i : Instr} {s t : State} (h : s.Wf) (he : exec i s = .next t) : t.Wf := by
  cases hi : i.isHostOp with
  | false => exact exec_command_wf h hi he
  | true =>
    rcases init_or_not i with ⟨m, rfl⟩ | hn
    · have ht := execInit_running h.ddram he
      cases he
      exact ht.wf ⟨by simp, fun _ => rfl⟩
    · cases hs : s.inited with
      | true =>
        have hrun := h.running hs
        exact (hrun.exec hi hn he).wf (hrun.reply hi he)
      | false =>
        rw [exec_rejected hi hn hs] at he
        cases he
        exact h.raise _

theorem settleString_wf {s : State} (h : s.Wf) : (settleString s).Wf := by
  unfold settleString
  split <;> exact h

/-- A byte that the device takes keeps the machine well formed. -/
theorem acceptTaken_wf {s : State} (h : s.Wf) (x : BusItem) : (acceptTaken x s).Wf := by
  cases hk : x.kind with
  | data =>
    simp only [acceptTaken, hk]
    exact h.setDevice (Device.wf_storeData _ h.ddram)
  | command =>
    cases hd : decodeCmd x.byte with
    | ok i =>
      obtain ⟨t, ht⟩ := exec_isCommand (decodeCmd_isCommand hd) s
      simp only [acceptTaken, hk, hd, ht]
      exact exec_wf h ht
    | error e =>
      simp only [acceptTaken, hk, hd]
      exact h.setDevice (Device.wf_unspecified _)

theorem acceptItem_wf {s : State} (h : s.Wf) (x : BusItem) : (acceptItem x s).Wf := by
  have hdraw : s.deviceDraw.Wf := h
  unfold acceptItem
  split
  · exact acceptTaken_wf h x
  · split
    · exact acceptTaken_wf hdraw x
    · exact hdraw

/-- Settles O44: a step is a byte that reaches the device, an operation, or the host's bookkeeping,
and each of these keeps the machine well formed. -/
theorem everyStepKeepsWellFormedness : Obligations.EveryStepKeepsWellFormedness := by
  intro s t h he
  cases hb : s.bus with
  | cons x rest =>
    rw [step_device hb] at he
    cases he
    exact acceptItem_wf (s := { s with bus := rest }) h x
  | nil =>
    have hrest : ∀ reqs, State.Wf { s with host := reqs } := fun _ => h
    cases hh : s.host with
    | nil =>
      rw [step_idle hb hh] at he
      cases he
      exact h
    | cons r rest =>
      cases r with
      | word w =>
        cases hd : decodeOp w with
        | ok i =>
          rw [step_word hb hh hd] at he
          exact exec_wf (hrest rest) he
        | error e =>
          rw [step_reserved hb hh hd] at he
          cases he
          exact (hrest rest).raise .illegalOperation
      | string cs =>
        cases cs with
        | nil =>
          rw [step_stringDone hb hh] at he
          cases he
          exact hrest rest
        | cons c cs =>
          rw [step_char hb hh] at he
          cases he
          exact settleString_wf (exec_wf (i := .wrch c) (hrest (.string cs :: rest)) rfl)

/-- Settles O43: reset is not Ready, drives no data pin and holds a canonical DDRAM. -/
theorem resetIsWellFormed : Obligations.ResetIsWellFormed :=
  ⟨nofun, ⟨rfl, rfl, fun _ => rfl⟩, ⟨nofun, fun _ => rfl⟩, ⟨by decide, fun _ => rfl⟩,
    reset_ddram_wf⟩

end Sys2Proof.Machine
end

section
/-! SUPPORT. Changes of the state that the block does not see: a change that every part of an
operation commutes with is one that the whole operation commutes with. Another device is such a
change (10_state.md R26; 20_memory.md R42). -/

namespace Sys2Proof.Machine

/-- The change `g` touches nothing that an operation other than `INIT` reads, and commutes with all
that one writes. -/
structure Unseen (g : State → State) : Prop where
  inited : ∀ s, (g s).inited = s.inited
  pwrOn : ∀ s, (g s).pwrOn = s.pwrOn
  curCol : ∀ s, (g s).curCol = s.curCol
  curRow : ∀ s, (g s).curRow = s.curRow
  params : ∀ s, (g s).params = s.params
  modeCursor : ∀ s, (g s).modeCursor = s.modeCursor
  modeBlink : ∀ s, (g s).modeBlink = s.modeBlink
  modeWrap : ∀ s, (g s).modeWrap = s.modeWrap
  modePoll : ∀ s, (g s).modePoll = s.modePoll
  strobe : ∀ k b s, (g s).strobe k b = g (s.strobe k b)
  busyRead : ∀ s, (g s).busyRead = (s.busyRead.1, g s.busyRead.2)
  delay : ∀ c s, (g s).delay c = g (s.delay c)
  toBus : ∀ k b sure s, (g s).toBus k b sure = g (s.toBus k b sure)
  setPwrOn : ∀ v s, { g s with pwrOn := v } = g { s with pwrOn := v }
  setCursor : ∀ c r s, (g s).setCursor c r = g (s.setCursor c r)
  reply : ∀ st v s, { g s with status := st, result := v } = g { s with status := st, result := v }

/-- A change made to the state that a flow has reached. -/
def Flow.map (g : State → State) : Flow → Flow
  | .on s => .on (g s)
  | .raised err s => .raised err (g s)

namespace Unseen

variable {g : State → State}

theorem andThen {f f' : Flow} {k : State → Flow} (hf : f' = f.map g)
    (hk : ∀ u, k (g u) = (k u).map g) : f'.andThen k = (f.andThen k).map g := by
  subst hf
  cases f with
  | on u => exact hk u
  | raised err u => rfl

section
variable (G : Unseen g)
include G

theorem poll (n : Nat) (s : State) :
    Machine.poll n (g s) = ((Machine.poll n s).1, g (Machine.poll n s).2) := by
  induction n generalizing s with
  | zero => rfl
  | succ n ih =>
    simp only [Machine.poll, G.busyRead]
    split
    · exact ih _
    · rfl

theorem transfer (k : Kind) (b : Byte) (f : Bool) (s : State) :
    Machine.transfer k b f (g s) =
      ((Machine.transfer k b f s).1, g (Machine.transfer k b f s).2) := by
  have handshake : ∀ c u, handshake c f (g u) = ((handshake c f u).1, g (handshake c f u).2) := by
    intro c u
    simp only [Machine.handshake, G.modePoll, G.params]
    split
    · rw [G.delay]
    · exact G.poll _ _
  simp only [Machine.transfer, G.strobe, handshake, G.toBus]

theorem requireReady (s : State) :
    Machine.requireReady (g s) = (Machine.requireReady s).map g := by
  simp only [Machine.requireReady, G.inited]
  split <;> rfl

theorem tryTransfer (k : Kind) (b : Byte) (s : State) :
    Machine.tryTransfer k b (g s) = (Machine.tryTransfer k b s).map g := by
  simp only [Machine.tryTransfer, G.transfer]
  split <;> rfl

theorem moveTo (c : Byte) (r : Nibble) (s : State) :
    Machine.moveTo c r (g s) = (Machine.moveTo c r s).map g := by
  simp only [Machine.moveTo, G.params, G.setCursor]
  split
  · rfl
  · exact G.tryTransfer _ _ _

theorem advance (s : State) : advanceAfterWrite (g s) = (advanceAfterWrite s).map g := by
  simp only [advanceAfterWrite, G.curCol, G.curRow, G.modeWrap, G.setCursor]
  split
  · rfl
  · split <;> exact G.moveTo _ _ s

theorem spaces (n : Nat) (s : State) : writeSpaces n (g s) = (writeSpaces n s).map g := by
  induction n generalizing s with
  | zero => rfl
  | succ n ih => exact andThen (andThen (G.tryTransfer _ _ s) G.advance) ih

theorem togglePower (s : State) : Machine.togglePower (g s) = (Machine.togglePower s).map g := by
  simp only [Machine.togglePower, G.pwrOn, G.setPwrOn, G.modeCursor, G.modeBlink]
  exact G.tryTransfer _ _ _

theorem finish {f f' : Flow} (hf : f' = f.map g) : f'.finish = g f.finish := by
  subst hf
  cases f with
  | on u => exact G.reply .ok 0 u
  | raised err u => exact G.reply err 0 u

/-- Every host operation but `INIT` commutes with a change that it does not see. -/
theorem exec {i : Instr} {s : State} (hi : i.isHostOp = true) (hn : ∀ m, i ≠ .init m) :
    Machine.exec i (g s) = mapNext g (Machine.exec i s) := by
  have hgate := G.requireReady s
  have main : ∀ {f f' : Flow}, f' = f.map g →
      (.next f'.finish : Result) = mapNext g (.next f.finish) :=
    fun hf => congrArg _ (G.finish hf)
  cases i with
  | init m => exact absurd rfl (hn m)
  | wrch d => exact main (andThen (andThen hgate (G.tryTransfer _ _)) G.advance)
  | moveTo c r => exact main (andThen hgate (G.moveTo c r))
  | homeTop => exact main (andThen hgate (G.moveTo 0 0))
  | homeBot => exact main (andThen hgate (G.moveTo 0 1))
  | clearAll =>
    exact main (andThen (andThen hgate (G.tryTransfer _ _))
      fun u => congrArg Flow.on (G.setCursor 0 0 u))
  | clearRow r =>
    exact main (andThen (andThen (andThen hgate (G.moveTo 0 _)) (G.spaces _)) (G.moveTo 0 _))
  | togglePower => exact main (andThen hgate G.togglePower)
  | remain =>
    have hcount : remainingCapacity (g s) = remainingCapacity s := by
      simp only [remainingCapacity, G.curRow, G.curCol]
    rcases Bool.dichotomy s.inited with hs | hs
    · rw [exec_rejected hi hn hs, exec_rejected hi hn ((G.inited s).trans hs)]
      exact congrArg _ (G.reply .precallSequenceViolation 0 s)
    · rw [exec_remain_ready hs, exec_remain_ready ((G.inited s).trans hs), hcount]
      exact congrArg _ (G.reply .ok (remainingCapacity s) s)
  | xfer k b => exact main (andThen hgate (G.tryTransfer k b))
  | _ => cases hi

end

end Unseen

theorem busyRead_setDevice (d : Device) (s : State) :
    (s.setDevice d).busyRead = (s.busyRead.1, s.busyRead.2.setDevice d) := by
  cases h : s.answers with
  | nil => rw [busyRead_free h, busyRead_free (s := s.setDevice d) h]; rfl
  | cons b rest => rw [busyRead_listed h, busyRead_listed (s := s.setDevice d) h]; rfl

/-- No part of an operation sees the device. -/
theorem unseen_setDevice (d : Device) : Unseen (fun s => s.setDevice d) where
  inited _ := rfl
  pwrOn _ := rfl
  curCol _ := rfl
  curRow _ := rfl
  params _ := rfl
  modeCursor _ := rfl
  modeBlink _ := rfl
  modeWrap _ := rfl
  modePoll _ := rfl
  strobe k b s := by simp only [strobe_eq]; rfl
  busyRead := busyRead_setDevice d
  delay _ _ := rfl
  toBus _ _ _ _ := rfl
  setPwrOn _ _ := rfl
  setCursor _ _ _ := rfl
  reply _ _ _ := rfl

theorem initSequence_setDevice (d : Device) (s : State) :
    initSequence (s.setDevice d) = (initSequence s).setDevice d := by
  have hstep : ∀ b u, initTransfer b (State.setDevice u d) = (initTransfer b u).setDevice d :=
    fun b u => congrArg Prod.snd ((unseen_setDevice d).transfer .command b true u)
  have hdelay : (s.setDevice d).delay .pwr = (s.delay .pwr).setDevice d := rfl
  simp only [initSequence, hdelay, hstep, State.modeBus8, State.modeTwoLine, State.modeFont11,
    State.modeCursor, State.modeBlink, State.modeInc, State.setDevice_mode]

/-- With another device in place, every host operation does the same and leaves that device. -/
theorem exec_setDevice {i : Instr} (hi : i.isHostOp = true) (s : State) (d : Device) :
    exec i (s.setDevice d) = mapNext (fun u => u.setDevice d) (exec i s) := by
  rcases init_or_not i with ⟨m, rfl⟩ | hn
  · have h : initSequence { s.setDevice d with mode := m } =
        (initSequence { s with mode := m }).setDevice d :=
      initSequence_setDevice d { s with mode := m }
    rw [exec_init, exec_init, h]
    rfl
  · exact (unseen_setDevice d).exec hi hn

/-- Settles O45: another device is a change that no operation sees. -/
theorem blockIsIndependentOfTheDevice : Obligations.BlockIsIndependentOfTheDevice := by
  intro i s t d hi he
  have h := exec_setDevice hi s d
  rw [he] at h
  exact h

end Sys2Proof.Machine
end

section
/-! SUPPORT. The reference device one byte at a time (20_memory.md R57 to R61): the frame of its
commands, the loop of writes behind clear, a data byte at the address counter, and a command byte
without meaning. -/

namespace Sys2Proof.Machine

/-! ## The six commands (R59 to R61) -/

/-- A command of the device is no operation of the host (30_encoding.md R78). -/
theorem isHostOp_of_isCommand {i : Instr} (h : i.isCommand = true) : i.isHostOp = false := by
  simp only [Instr.isCommand, Instr.isHostOp, Instr.wellFormed, beq_iff_eq] at h ⊢
  simp [h]

/-- No command but clear writes DDRAM. -/
theorem exec_command_ddram {i : Instr} {s t : State} (hi : i.isHostOp = false)
    (hn : i ≠ .cmdClear) (he : exec i s = .next t) : t.device.ddram = s.device.ddram := by
  cases i with
  | cmdClear => exact absurd rfl hn
  | cmdHome x => cases he; rfl
  | cmdEntry inc shift => cases he; rfl
  | cmdDisplay on cursor blink => cases he; rfl
  | cmdFunction bus8 two font11 x => cases he; rfl
  | cmdSetDdram a => cases he; rfl
  | _ => cases hi

/-- Settles O34: `exec_command` for the block, and for DDRAM that only clear writes it. -/
theorem deviceCommandsLeaveTheBlockAlone : Obligations.DeviceCommandsLeaveTheBlockAlone := by
  intro i s t hi he
  have hi' := isHostOp_of_isCommand hi
  constructor
  · obtain ⟨d, rfl⟩ := exec_command hi' he
    rfl
  · intro hn a
    rw [exec_command_ddram hi' hn he]

/-- Settles O36: each command is one update of the device, and a filled memory reads as its byte
everywhere. -/
theorem deviceCommandsActAsTheReference : Obligations.DeviceCommandsActAsTheReference :=
  fun _ => ⟨⟨Memory.filled 0x20, rfl, Memory.read_filled 0x20⟩, fun _ => rfl, fun _ _ => rfl,
    fun _ _ _ => rfl, fun _ _ _ _ => rfl, fun _ => rfl⟩

/-! ## Clear as a loop of writes (R59) -/

/-- The loop of R59, stopped after the addresses below `n`. -/
def Memory.fillBelow (v : Byte) (n : Nat) (m : Memory) : Memory :=
  (List.range n).foldl (fun m' a => m'.write (BitVec.ofNat 7 a) v) m

theorem Memory.fillBelow_succ (v : Byte) (n : Nat) (m : Memory) :
    m.fillBelow v (n + 1) = (m.fillBelow v n).write (BitVec.ofNat 7 n) v := by
  simp [Memory.fillBelow, List.range_succ]

theorem Memory.wf_fillBelow {m : Memory} (v : Byte) (n : Nat) (h : m.wf = true) :
    (m.fillBelow v n).wf = true := by
  induction n with
  | zero => exact h
  | succ n ih =>
    rw [Memory.fillBelow_succ]
    exact Memory.wf_write _ v ih

/-- Every address that the loop has passed holds the byte: written last, or written before and not
since. -/
theorem Memory.read_fillBelow (v : Byte) {n : Nat} (m : Memory) {a : Address} (h : a.toNat < n) :
    (m.fillBelow v n).read a = v := by
  induction n with
  | zero => omega
  | succ n ih =>
    rw [Memory.fillBelow_succ]
    by_cases ha : a = BitVec.ofNat 7 n
    · rw [ha]
      exact Memory.read_write_same _ _ v
    · have hne : a.toNat ≠ n := by
        rintro rfl
        simp at ha
      rw [Memory.read_write_other _ v ha]
      exact ih (by omega)

/-- Settles O37: both memories are in canonical form and read as the byte at every address. -/
theorem clearIsTheLoopOfWrites : Obligations.ClearIsTheLoopOfWrites := by
  intro m v h
  refine Memory.ext_wf (m := m.fillBelow v 128) (Memory.wf_fillBelow v 128 h) (Memory.wf_filled v)
    fun a => ?_
  rw [Memory.read_fillBelow v m a.isLt, Memory.read_filled]

/-! ## One byte reaches the device (R57, R58, R61) -/

/-- The address counter steps by one modulo 128, down as 127 up (R61). -/
theorem Device.stepAc_toNat (d : Device) :
    d.stepAc.ac.toNat =
      (match d.dir with
        | .inc => (d.ac.toNat + 1) % 128
        | .dec => (d.ac.toNat + 127) % 128) := by
  cases h : d.dir with
  | inc => simp [Device.stepAc, h, BitVec.toNat_add]
  | dec => simp [Device.stepAc, h, BitVec.toNat_sub, Nat.add_comm]

/-- A data byte on its way is stored by the device, and nothing else happens. -/
theorem step_data {s : State} {d : Byte} {rest : List BusItem} (h : s.bus = dataItem d :: rest) :
    step s = .next { s with bus := rest, device := s.device.storeData d } := by
  rw [step_device h, acceptItem_eq]
  rfl

/-- Settles O38: a step is the device storing the byte, and the laws of a write and of the address
counter. -/
theorem dataByteIsStoredAtTheCounter : Obligations.DataByteIsStoredAtTheCounter := by
  intro s d rest h
  refine ⟨_, step_data h, rfl, Memory.read_write_same _ _ d,
    fun a ha => Memory.read_write_other _ d ha, ?_, rfl, rfl, rfl, rfl, rfl⟩
  exact Device.stepAc_toNat { s.device with ddram := s.device.ddram.write s.device.ac d }

/-- A command byte without meaning leaves the device unspecified, and nothing else happens. -/
theorem step_unknownCommand {s : State} {b : Byte} {rest : List BusItem} {e : DecodeError}
    (h : s.bus = cmdItem b :: rest) (hd : decodeCmd b = .error e) :
    step s = .next { s with
      bus := rest, device := Device.unspecified (s.device.draws + 1) } := by
  simp only [step, fetch, h, fetchDevice, fetchTaken, cmdItem, decode, hd, if_true]
  rfl

/-- The bytes without a meaning, by looking at all 256 (R58). -/
theorem decodeCmd_isOk_eq_false_iff : ∀ b : Byte, (decodeCmd b).isOk = false ↔
    b = 0 ∨ (0x10 ≤ b.toNat ∧ b.toNat < 0x20) ∨ (0x40 ≤ b.toNat ∧ b.toNat < 0x80) := by
  decide +kernel

/-- Settles O40: which bytes the decoder refuses, and what a step does with one. -/
theorem commandsWithoutMeaningLeaveTheDeviceUnspecified :
    Obligations.CommandsWithoutMeaningLeaveTheDeviceUnspecified := by
  refine ⟨fun b => ?_, fun _ _ _ _ h hd => step_unknownCommand h hd⟩
  rw [← decodeCmd_isOk_eq_false_iff b]
  cases decodeCmd b with
  | ok i => simp [Except.isOk, Except.toBool]
  | error e => simp [Except.isOk, Except.toBool]

end Sys2Proof.Machine
end

section
/-! SUPPORT. Encoding and decoding are inverse to each other at both ports (30_encoding.md R71 to
R73, R78 to R84). -/

namespace Sys2Proof

/-! ## Decoding what was encoded -/

theorem xferZeroField_opWord (op : Nibble) (kind : Kind) (imm : Byte) :
    xferZeroField (opWord op ((bit1 kind.level).setWidth 4) imm) = 0 := by
  apply BitVec.eq_of_getLsbD_eq
  intro i hi
  simp only [xferZeroField, opWord]
  interval_cases i <;> simp

theorem kindField_opWord (op : Nibble) (kind : Kind) (imm : Byte) :
    kindField (opWord op ((bit1 kind.level).setWidth 4) imm) = kind := by
  cases kind <;> simp [kindField, opWord, bit1, Kind.level, Kind.ofLevel]

/-- The fields of the joined word are the operands, and its must-be-zero fields are zero. -/
theorem decode_encode_hostOp {i : Instr} (hi : i.isHostOp = true) :
    decode (encode i) = .ok i := by
  cases i with
  | init imm | wrch imm =>
    simp [encode, decode, decodeOp, opField_opWord, rowField_opWord, immField_opWord, needZero]
  | moveTo col row =>
    simp [encode, decode, decodeOp, opField_opWord, rowField_opWord, immField_opWord]
  | clearRow row =>
    simp [encode, decode, decodeOp, opField_opWord, rowField_opWord, immField_opWord, needZero]
  | xfer kind byte =>
    simp [encode, decode, decodeOp, opField_opWord, xferZeroField_opWord, kindField_opWord,
      immField_opWord, needZero]
  | homeTop | homeBot | clearAll | togglePower | remain => rfl
  | _ => cases hi

/-- The highest set bit of the byte is the command's own, and the bits below it the operands; by
looking at every operand of each command. -/
theorem decode_encode_command {i : Instr} (hi : i.isCommand = true) :
    decode (encode i) = .ok i := by
  cases i with
  | cmdClear => rfl
  | cmdHome ignored => revert ignored; decide
  | cmdEntry inc shift => revert inc shift; decide
  | cmdDisplay on cursor blink => revert on cursor blink; decide
  | cmdFunction bus8 two font11 ignored => revert bus8 two font11 ignored; decide +kernel
  | cmdSetDdram addr => revert addr; decide +kernel
  | _ => cases hi

theorem isHostOp_or_isCommand (i : Instr) : i.isHostOp = true ∨ i.isCommand = true := by
  cases h : i.format <;> simp [Instr.isHostOp, Instr.isCommand, Instr.wellFormed, h]

/-- Settles O2: every instruction belongs to one port, and is read back there. -/
theorem decodeOfEncodeIsTheInstruction : Obligations.DecodeOfEncodeIsTheInstruction := fun i =>
  (isHostOp_or_isCommand i).elim decode_encode_hostOp decode_encode_command

/-! ## Encoding what was decoded -/

/-- A word is its fields, with `op` given by its number. -/
theorem eq_opWord {w : OpWord} {n : Nat} (hop : (opField w).toNat = n) :
    opWord (BitVec.ofNat 4 n) (rowField w) (immField w) = w := by
  rw [← opField_of hop, opWord_fields]

/-- Where the zero bits of `XFER` are zero, the row field holds its kind alone (R72, R73). -/
theorem rowField_of_xferZeroField {w : OpWord} (h : xferZeroField w = 0) :
    rowField w = (bit1 (kindField w).level).setWidth 4 := by
  rw [kindField, Kind.level_ofLevel]
  apply BitVec.eq_of_getLsbD_eq
  intro i hi
  cases i with
  | zero => simp [rowField, bit1]
  | succ j =>
    have hj : w.getLsbD (9 + j) = false := by
      simpa [xferZeroField, show j < 3 by omega] using congrArg (·.getLsbD j) h
    simp [rowField, bit1, hi, show 8 + (j + 1) = 9 + j by omega, hj]

/-- Every arm of the decoder of words keeps all the bits: they are operands, or checked to be
zero. -/
theorem encode_of_decodeOp {w : OpWord} {i : Instr} (h : decodeOp w = .ok i) :
    encode i = .opw w := by
  unfold decodeOp at h
  split at h
  case h_1 hop | h_2 hop | h_4 hop | h_5 hop | h_6 hop | h_7 hop | h_8 hop | h_9 hop =>
    obtain ⟨hz, rfl⟩ := needZero_ok.mp h
    simp only [Bool.and_eq_true, beq_iff_eq] at hz
    simpa [encode, hz] using eq_opWord hop
  case h_3 hop =>
    cases h
    simpa [encode] using eq_opWord hop
  case h_10 hop =>
    obtain ⟨hz, rfl⟩ := needZero_ok.mp h
    rw [beq_iff_eq] at hz
    simpa [encode, rowField_of_xferZeroField hz] using eq_opWord hop
  case h_11 => cases h

/-- Every command byte keeps all its bits; by looking at all 256. -/
theorem encode_of_decodeCmd {b : Byte} {i : Instr} (h : decodeCmd b = .ok i) :
    encode i = .cmd8 b := by
  have all : ∀ b : Byte, ∀ i ∈ (decodeCmd b).toOption, encode i = .cmd8 b := by decide +kernel
  exact all b i (by rw [h]; rfl)

/-- Settles O3: port by port. -/
theorem encodeOfDecodeIsTheCode : Obligations.EncodeOfDecodeIsTheCode
  | .opw _, _, h => encode_of_decodeOp h
  | .cmd8 _, _, h => encode_of_decodeCmd h

/-- Settles O1: each word and byte is computed. -/
theorem listedWordsDecodeAsTheSpecSays : Obligations.ListedWordsDecodeAsTheSpecSays := by
  unfold Obligations.ListedWordsDecodeAsTheSpecSays
  decide

end Sys2Proof
end

section
/-! SUPPORT. The match/mask tables (30_encoding.md R72, R78): the rows of the operation words field by
field, the one row of each encoding, and the operands as fields. -/

namespace Sys2Proof

/-! ## Masks on the fields of a word -/

theorem opWord_inj {op op' row row' : Nibble} {imm imm' : Byte} :
    opWord op row imm = opWord op' row' imm' ↔ op = op' ∧ row = row' ∧ imm = imm' := by
  constructor
  · intro h
    refine ⟨?_, ?_, ?_⟩
    · simpa only [opField_opWord] using congrArg opField h
    · simpa only [rowField_opWord] using congrArg rowField h
    · simpa only [immField_opWord] using congrArg immField h
  · rintro ⟨rfl, rfl, rfl⟩
    rfl

theorem opWord_and (op op' row row' : Nibble) (imm imm' : Byte) :
    opWord op row imm &&& opWord op' row' imm' =
      opWord (op &&& op') (row &&& row') (imm &&& imm') := by
  rw [← opWord_fields (_ &&& _)]
  simp only [opField, rowField, immField, BitVec.extractLsb'_and, opWord_inj]
  exact ⟨congrArg₂ _ (opField_opWord ..) (opField_opWord ..),
    congrArg₂ _ (rowField_opWord ..) (rowField_opWord ..),
    congrArg₂ _ (immField_opWord ..) (immField_opWord ..)⟩

theorem selects_opWord (mnemonic : String) (op row opP rowP opM rowM : Nibble)
    (imm immP immM : Byte) :
    TableRow.selects ⟨mnemonic, opWord opP rowP immP, opWord opM rowM immM⟩ (opWord op row imm) =
        true ↔
      op &&& opM = opP ∧ row &&& rowM = rowP ∧ imm &&& immM = immP := by
  rw [TableRow.selects, beq_iff_eq, opWord_and, opWord_inj]

/-- The table of R72 with its patterns and masks cut into fields. -/
theorem opwTable_eq : opwTable =
    [⟨"INIT", opWord 0x1 0 0, opWord 0xF 0xF 0⟩, ⟨"WRCH", opWord 0x2 0 0, opWord 0xF 0xF 0⟩,
     ⟨"MOVE_TO", opWord 0x3 0 0, opWord 0xF 0 0⟩,
     ⟨"HOME_TOP", opWord 0x4 0 0, opWord 0xF 0xF 0xFF⟩,
     ⟨"HOME_BOT", opWord 0x5 0 0, opWord 0xF 0xF 0xFF⟩,
     ⟨"CLEAR_ALL", opWord 0x6 0 0, opWord 0xF 0xF 0xFF⟩,
     ⟨"CLEAR_ROW", opWord 0x7 0 0, opWord 0xF 0 0xFF⟩,
     ⟨"TOGGLE_POWER", opWord 0x8 0 0, opWord 0xF 0xF 0xFF⟩,
     ⟨"REMAIN", opWord 0x9 0 0, opWord 0xF 0xF 0xFF⟩,
     ⟨"XFER", opWord 0xA 0 0, opWord 0xF 0xE 0⟩] := by
  decide

theorem nibble_and_full (n : Nibble) : n &&& 15#4 = n := BitVec.and_allOnes

theorem byte_and_full (b : Byte) : b &&& 255#8 = b := BitVec.and_allOnes

/-- What the rows of R72 ask of the fields of a word. -/
theorem exists_selects_opWord_iff (op row : Nibble) (imm : Byte) :
    (∃ r ∈ opwTable, r.selects (opWord op row imm) = true) ↔
      (op = 1 ∧ row = 0) ∨ (op = 2 ∧ row = 0) ∨ op = 3 ∨ (op = 4 ∧ row = 0 ∧ imm = 0) ∨
      (op = 5 ∧ row = 0 ∧ imm = 0) ∨ (op = 6 ∧ row = 0 ∧ imm = 0) ∨ (op = 7 ∧ imm = 0) ∨
      (op = 8 ∧ row = 0 ∧ imm = 0) ∨ (op = 9 ∧ row = 0 ∧ imm = 0) ∨
      (op = 10 ∧ row &&& 0xE = 0) := by
  simp [opwTable_eq, selects_opWord, nibble_and_full, byte_and_full]

/-- A row with bits 3 to 1 zero is a kind of `XFER` (R72, R73). -/
theorem row_eq_kind_of_zero : ∀ row : Nibble, row &&& 0xE = 0 →
    row = (bit1 (Kind.ofLevel (row.getLsbD 0)).level).setWidth 4 := by decide

/-- A word that a row of R72 selects is the encoding of an instruction of that row. -/
theorem exists_encode_of_selects {w : OpWord} (h : ∃ r ∈ opwTable, r.selects w = true) :
    ∃ i, encode i = .opw w := by
  rw [← opWord_fields w, exists_selects_opWord_iff] at h
  rw [← opWord_fields w]
  generalize opField w = op, rowField w = row, immField w = imm at h
  rcases h with ⟨rfl, rfl⟩ | ⟨rfl, rfl⟩ | rfl | ⟨rfl, rfl, rfl⟩ | ⟨rfl, rfl, rfl⟩ |
    ⟨rfl, rfl, rfl⟩ | ⟨rfl, rfl⟩ | ⟨rfl, rfl, rfl⟩ | ⟨rfl, rfl, rfl⟩ | ⟨rfl, hrow⟩
  · exact ⟨.init imm, rfl⟩
  · exact ⟨.wrch imm, rfl⟩
  · exact ⟨.moveTo imm row, rfl⟩
  · exact ⟨.homeTop, rfl⟩
  · exact ⟨.homeBot, rfl⟩
  · exact ⟨.clearAll, rfl⟩
  · exact ⟨.clearRow row, rfl⟩
  · exact ⟨.togglePower, rfl⟩
  · exact ⟨.remain, rfl⟩
  · exact ⟨.xfer (Kind.ofLevel (row.getLsbD 0)) imm,
      congrArg (fun r => Code.opw (opWord 0xA r imm)) (row_eq_kind_of_zero row hrow).symm⟩

/-! ## The decoders against the tables -/

/-- The encoding of an instruction is selected by the row of its mnemonic and no other. -/
theorem rows_encode (i : Instr) : (encode i).rows = [i.mnemonic] := by
  cases i with
  | init mode => exact (Laws.TableRow.init mode).2
  | wrch d => exact (Laws.TableRow.wrch d).2
  | moveTo col row => exact (Laws.TableRow.moveTo col row).2
  | homeTop => exact Laws.TableRow.homeTop.2
  | homeBot => exact Laws.TableRow.homeBot.2
  | clearAll => exact Laws.TableRow.clearAll.2
  | clearRow row => exact (Laws.TableRow.clearRow row).2
  | togglePower => exact Laws.TableRow.togglePower.2
  | remain => exact Laws.TableRow.remain.2
  | xfer kind byte => exact (Laws.TableRow.xfer kind byte).2
  | cmdClear => exact Laws.TableRow.cmdClear.2
  | cmdHome ignored => exact (Laws.TableRow.cmdHome ignored).2
  | cmdEntry inc shift => exact (Laws.TableRow.cmdEntry inc shift).2
  | cmdDisplay on cursor blink => exact (Laws.TableRow.cmdDisplay on cursor blink).2
  | cmdFunction bus8 two font11 ignored =>
    exact (Laws.TableRow.cmdFunction bus8 two font11 ignored).2
  | cmdSetDdram addr => exact (Laws.TableRow.cmdSetDdram addr).2

/-- A code that decodes is selected by the row of the mnemonic and no other. -/
theorem rows_of_decode {c : Code} {i : Instr} (h : decode c = .ok i) : c.rows = [i.mnemonic] := by
  rw [← encodeOfDecodeIsTheCode c i h, rows_encode]

/-- A row among those that select is a row of the table. -/
theorem exists_selects_of_names {width : Nat} {table : List (TableRow width)} {w : BitVec width}
    {name : String} (h : (table.filter (·.selects w)).map (·.mnemonic) = [name]) :
    ∃ r ∈ table, r.selects w = true := by
  have hmem : name ∈ (table.filter (·.selects w)).map (·.mnemonic) := by simp [h]
  obtain ⟨r, hr, -⟩ := List.mem_map.mp hmem
  exact ⟨r, List.mem_filter.mp hr⟩

/-- Settles O4: what decodes is an encoding, which the row of its mnemonic selects; what a row
selects is an encoding, which decodes. -/
theorem decoderAgreesWithTheMatchMaskTable : Obligations.DecoderAgreesWithTheMatchMaskTable := by
  have rows : ∀ (w : OpWord) (i : Instr), decodeOp w = .ok i → (Code.opw w).rows = [i.mnemonic] :=
    fun w _ h => rows_of_decode (c := .opw w) h
  refine ⟨fun w => ⟨fun ⟨i, h⟩ => exists_selects_of_names (rows w i h), fun h => ?_⟩, rows⟩
  obtain ⟨i, hi⟩ := exists_encode_of_selects h
  have hd := decodeOfEncodeIsTheInstruction i
  rw [hi] at hd
  exact ⟨i, hd⟩

/-- The bytes that decode are those a row of R78 selects; by looking at all 256. -/
theorem decodeCmd_isOk_eq_any : ∀ b : Byte,
    (decodeCmd b).isOk = cmd8Table.any (·.selects b) := by decide +kernel

/-- Settles O5: the bytes by enumeration, the row and the fields from the encoding. -/
theorem commandDecoderAgreesWithItsMatchMaskTable :
    Obligations.CommandDecoderAgreesWithItsMatchMaskTable := by
  refine ⟨fun b => ?_, fun b i h => ⟨rows_of_decode (c := .cmd8 b) h, ?_⟩⟩
  · rw [← List.any_eq_true, ← decodeCmd_isOk_eq_any]
    cases decodeCmd b <;> simp [Except.isOk, Except.toBool]
  · have he := encode_of_decodeCmd h
    cases i with
    | cmdClear => trivial
    | cmdHome ignored =>
      obtain rfl := Code.cmd8.inj he
      revert ignored; decide
    | cmdEntry inc shift =>
      obtain rfl := Code.cmd8.inj he
      revert inc shift; decide
    | cmdDisplay on cursor blink =>
      obtain rfl := Code.cmd8.inj he
      revert on cursor blink; decide
    | cmdFunction bus8 two font11 ignored =>
      obtain rfl := Code.cmd8.inj he
      revert bus8 two font11 ignored; decide
    | cmdSetDdram addr =>
      obtain rfl := Code.cmd8.inj he
      revert addr; decide +kernel
    | _ => cases he

/-- Settles O6: the word is the encoding of what it decodes to, whose fields are the operands. -/
theorem operandsAreTheirFields : Obligations.OperandsAreTheirFields := by
  intro w i h
  have he := encode_of_decodeOp h
  cases i with
  | init imm | wrch imm =>
    obtain rfl := Code.opw.inj he
    exact (immField_opWord ..).symm
  | moveTo col row =>
    obtain rfl := Code.opw.inj he
    exact ⟨(immField_opWord ..).symm, (rowField_opWord ..).symm⟩
  | clearRow row =>
    obtain rfl := Code.opw.inj he
    exact (rowField_opWord ..).symm
  | xfer kind byte =>
    obtain rfl := Code.opw.inj he
    refine ⟨?_, (immField_opWord ..).symm⟩
    rw [← Kind.level_ofLevel (BitVec.getLsbD _ 8)]
    exact congrArg Kind.level (kindField_opWord ..).symm
  | homeTop | homeBot | clearAll | togglePower | remain => trivial
  | _ => cases he

end Sys2Proof
end

section
/-! SUPPORT. Reserved words: which they are, and what a step does with one (30_encoding.md R76;
60_exceptions.md R185). -/

namespace Sys2Proof

/-- The two fields `row` and `imm` are bits 11:0 of the word (R71). -/
theorem lowField_eq_zero_iff (w : OpWord) :
    w.extractLsb' 0 12 = 0 ↔ rowField w = 0 ∧ immField w = 0 := by
  have h : rowField w ++ immField w = w.extractLsb' 0 12 :=
    BitVec.extractLsb'_append_extractLsb'_eq_extractLsb' rfl
  rw [← h]
  constructor
  · intro h0
    constructor
    · rw [← BitVec.extractLsb'_append_eq_left (a := rowField w) (b := immField w), h0]
      rfl
    · rw [← BitVec.extractLsb'_append_eq_right (a := rowField w) (b := immField w), h0]
      rfl
  · rintro ⟨hrow, himm⟩
    rw [hrow, himm]
    rfl

/-- The decoder refuses a word by its `op`, or for the zero field of its `op` (R76). -/
theorem exists_decodeOp_error_iff (w : OpWord) : (∃ e, decodeOp w = .error e) ↔
    (opField w = 0 ∨ 0xB ≤ (opField w).toNat) ∨
    ((opField w = 1 ∨ opField w = 2) ∧ rowField w ≠ 0) ∨
    ((opField w = 4 ∨ opField w = 5 ∨ opField w = 6 ∨ opField w = 8 ∨ opField w = 9) ∧
      ¬(rowField w = 0 ∧ immField w = 0)) ∨
    (opField w = 7 ∧ immField w ≠ 0) ∨ (opField w = 10 ∧ xferZeroField w ≠ 0) := by
  unfold decodeOp
  split
  case h_1 hop | h_2 hop | h_3 hop | h_4 hop | h_5 hop | h_6 hop | h_7 hop | h_8 hop | h_9 hop
      | h_10 hop =>
    simp [needZero_error, opField_of hop]
  case h_11 h1 h2 h3 h4 h5 h6 h7 h8 h9 h10 =>
    have hop : opField w = 0 ∨ 0xB ≤ (opField w).toNat := by
      rcases Nat.eq_zero_or_pos (opField w).toNat with h0 | hpos
      · exact .inl (opField_of h0)
      · exact .inr (by grind)
    exact ⟨fun _ => .inl hop, fun _ => ⟨_, rfl⟩⟩

/-- Settles O7: the words that the decoder refuses, and the equation of a step with one. -/
theorem reservedWordsAreIllegalOperations : Obligations.ReservedWordsAreIllegalOperations := by
  refine ⟨fun w => ?_, fun _ _ _ _ hb hh hd => Machine.step_reserved hb hh hd⟩
  rw [ne_eq (w.extractLsb' 0 12), lowField_eq_zero_iff]
  exact exists_decodeOp_error_iff w

end Sys2Proof
end

section
/-! SUPPORT. The bytes the block sends (30_encoding.md R79 to R85): what the device reads in each
builder's byte, and that the named operations send nothing but those and data. -/

namespace Sys2Proof.Machine

/-! ## The builders (R79 to R84), by looking at all their arguments -/

theorem decodeCmd_cmdEntryByte : ∀ inc,
    decodeCmd (cmdEntryByte inc) = .ok (.cmdEntry inc false) := by decide

theorem decodeCmd_cmdDisplayByte : ∀ on cursor blink,
    decodeCmd (cmdDisplayByte on cursor blink) = .ok (.cmdDisplay on cursor blink) := by decide

theorem decodeCmd_cmdFunctionByte : ∀ bus8 two font11,
    decodeCmd (cmdFunctionByte bus8 two font11) = .ok (.cmdFunction bus8 two font11 0) := by decide

theorem decodeCmd_cmdSetDdramByte : ∀ a,
    decodeCmd (cmdSetDdramByte a) = .ok (.cmdSetDdram a) := by decide +kernel

theorem cmdSetDdramByte_toNat : ∀ a, (cmdSetDdramByte a).toNat = 0x80 + a.toNat := by
  decide +kernel

/-- Settles O8: builder by builder. -/
theorem commandBuildersGiveTheirBytes : Obligations.CommandBuildersGiveTheirBytes :=
  ⟨rfl, rfl, rfl, rfl, decodeCmd_cmdEntryByte, decodeCmd_cmdDisplayByte,
    decodeCmd_cmdFunctionByte, fun a => ⟨decodeCmd_cmdSetDdramByte a, cmdSetDdramByte_toNat a⟩⟩

/-! ## What the named operations send (R85) -/

/-- A byte of this kind may be sent by a named operation, sure to be taken or not. -/
def Allowed (k : Kind) (b : Byte) : Prop := ∀ sure, BusItem.emittable ⟨k, b, sure⟩ = true

theorem allowed_data (d : Byte) : Allowed .data d := fun _ => rfl

theorem allowed_command {b : Byte} {i : Instr} (hd : decodeCmd b = .ok i)
    (hi : Instr.emittable i = true) : Allowed .command b := fun _ => by
  simp only [BusItem.emittable, hd, hi]

theorem allowed_clear : Allowed .command cmdClearByte := allowed_command (i := .cmdClear) rfl rfl

theorem allowed_entry (inc : Bool) : Allowed .command (cmdEntryByte inc) :=
  allowed_command (decodeCmd_cmdEntryByte inc) rfl

theorem allowed_display (on cursor blink : Bool) :
    Allowed .command (cmdDisplayByte on cursor blink) :=
  allowed_command (decodeCmd_cmdDisplayByte on cursor blink) rfl

theorem allowed_function (bus8 two font11 : Bool) :
    Allowed .command (cmdFunctionByte bus8 two font11) :=
  allowed_command (decodeCmd_cmdFunctionByte bus8 two font11) rfl

theorem allowed_setDdram (a : Address) : Allowed .command (cmdSetDdramByte a) :=
  allowed_command (decodeCmd_cmdSetDdramByte a) rfl

/-- Only bytes that a named operation may send were added to the bus. -/
def SendsAllowed (s t : State) : Prop :=
  ∃ new, t.bus = s.bus ++ new ∧ ∀ x ∈ new, x.emittable = true

theorem SendsAllowed.of_bus_eq {s t : State} (h : t.bus = s.bus) : SendsAllowed s t :=
  ⟨[], by simp [h], by simp⟩

theorem kept_sendsAllowed : Kept Allowed SendsAllowed where
  refl _ := .of_bus_eq rfl
  trans := by
    rintro s t u ⟨new, ht, hnew⟩ ⟨new', hu, hnew'⟩
    exact ⟨new ++ new', by rw [hu, ht, List.append_assoc], List.forall_mem_append.mpr ⟨hnew, hnew'⟩⟩
  transfer k b f s hb := ⟨_, transfer_bus k b f s, List.forall_mem_singleton.mpr (hb _)⟩
  cursor _ _ _ := .of_bus_eq rfl

/-- The power-on sequence of `INIT` sends four of the five commands (R85, R150). -/
theorem initSequence_sendsAllowed (s : State) : SendsAllowed s (initSequence s) :=
  kept_sendsAllowed.trans (t := s.delay .pwr) (.of_bus_eq rfl)
    (kept_sendsAllowed.initSequence allowed_function allowed_display allowed_clear allowed_entry s)

/-- Settles O56: `INIT` by its sequence, the other named operations by the parts they are made
of. -/
theorem namedOperationsSendFiveCommands : Obligations.NamedOperationsSendFiveCommands := by
  intro i s t hi hx he
  rcases init_or_not i with ⟨m, rfl⟩ | hn
  · cases he
    exact initSequence_sendsAllowed { s with mode := m }
  · obtain ⟨u, st, v, hu, rfl, -⟩ := kept_sendsAllowed.exec allowed_setDdram (allowed_data space)
      (fun d _ => allowed_data d) allowed_clear allowed_display
      (fun k b h => absurd h (hx k b)) (fun _ => .of_bus_eq rfl) hi hn he
    exact hu

end Sys2Proof.Machine
end

section
/-! SUPPORT. What a step can be, said once: a byte that reaches the device (`step_device`), an
operation of the host, or a reply without one (10_state.md R11; 30_encoding.md R70, R76, R89). -/

namespace Sys2Proof.Machine

theorem format_encode (i : Instr) : (encode i).format = i.format := by cases i <;> rfl

/-- The operation port gives only host operations (30_encoding.md R70). -/
theorem isHostOp_of_decodeOp {w : OpWord} {i : Instr} (h : decodeOp w = .ok i) :
    i.isHostOp = true := by
  rw [Instr.isHostOp, Instr.wellFormed, ← format_encode, encode_of_decodeOp h]
  rfl

theorem settleString_eq (s : State) :
    settleString s = { s with host := (settleString s).host } := by
  unfold settleString
  split <;> rfl

/-- A step with nothing on the bus is an operation of the host, or writes at most the reply; the
host's requests move on in both cases (30_encoding.md R70, R76, R89). -/
theorem step_host_cases {s t : State} (hb : s.bus = []) (he : step s = .next t) :
    (∃ i reqs u reqs', i.isHostOp = true ∧ exec i { s with host := reqs } = .next u ∧
      t = { u with host := reqs' }) ∨
    ∃ reqs st v, t = { s with host := reqs, status := st, result := v } := by
  cases hh : s.host with
  | nil =>
    rw [step_idle hb hh] at he
    cases he
    exact .inr ⟨s.host, s.status, s.result, rfl⟩
  | cons r rest =>
    rcases r with w | _ | ⟨c, cs⟩
    · cases hd : decodeOp w with
      | ok i =>
        rw [step_word hb hh hd] at he
        exact .inl ⟨i, rest, t, t.host, isHostOp_of_decodeOp hd, he, rfl⟩
      | error e =>
        rw [step_reserved hb hh hd] at he
        cases he
        exact .inr ⟨rest, .illegalOperation, 0, rfl⟩
    · rw [step_stringDone hb hh] at he
      cases he
      exact .inr ⟨rest, s.status, s.result, rfl⟩
    · rw [step_char hb hh] at he
      cases he
      exact .inl ⟨.wrch c, .string cs :: rest, _, _, rfl, rfl, settleString_eq _⟩

end Sys2Proof.Machine
end

section
/-! SUPPORT. The transfer trace of a longer pin trace (40_transport.md R112): what each part of an
operation appends to the pins' record parses by itself, into items whose bytes are those put on the
bus. -/

namespace Sys2Proof.Machine

/-! ## Groups of pin events -/

/-- What follows a trace that parses does not change how it parses. -/
theorem groups_append {evs : List Event} {gs : List Group} (h : groups evs = some gs)
    (more : List Event) : groups (evs ++ more) = (groups more).map (gs ++ ·) := by
  fun_induction groups evs generalizing gs with
  | case1 =>
    cases h
    simp
  | case2 _ _ ih | case3 _ _ _ ih | case4 _ _ _ _ ih | case5 _ _ ih | case6 _ _ ih =>
    obtain ⟨gs', hrest, rfl⟩ := Option.map_eq_some_iff.mp h
    simp only [List.cons_append, groups, ih hrest, Option.map_map]
    rfl
  | case7 => cases h

theorem highNibble_append_lowNibble (b : Byte) : highNibble b ++ lowNibble b = b :=
  (BitVec.extractLsb'_append_extractLsb'_eq_extractLsb' rfl).trans BitVec.extractLsb'_eq_self

/-- A byte written is one group, on either bus (R101, R102). -/
theorem groups_writeEvents (bus8 : Bool) (kind : Kind) (b : Byte) (more : List Event) :
    groups (writeEvents bus8 kind b ++ more) = (groups more).map (.xfer kind b :: ·) := by
  cases bus8 <;> simp [writeEvents, groups, highNibble_append_lowNibble, Kind.ofLevel_level]

/-- Each busy read is one group, on either bus (R106). -/
theorem groups_pollEvents (bus8 : Bool) (answers : List Bool) :
    groups (pollEvents bus8 answers) = some (answers.map .read) := by
  induction answers with
  | nil => rfl
  | cons busy answers ih =>
    have hread : ∀ more, groups (readEvents bus8 busy ++ more) =
        (groups more).map (.read busy :: ·) := by
      intro more
      cases bus8 <;> rfl
    rw [pollEvents, List.flatMap_cons, hread, ← pollEvents, ih]
    rfl

/-! ## Items of groups -/

/-- The first of the groups, if any, is no busy read. -/
def NoReadFirst (gs : List Group) : Prop := ∀ busy rest, gs ≠ .read busy :: rest

theorem NoReadFirst.append {gs more : List Group} (h : NoReadFirst gs) (hmore : NoReadFirst more) :
    NoReadFirst (gs ++ more) := by
  cases gs with
  | nil => exact hmore
  | cons g gs =>
    rintro busy rest ⟨⟩
    exact h busy gs rfl

/-- Groups that a run of busy reads does not reach into are parsed as if they stood alone
(R112 d). -/
theorem itemsAfter_append {n : Nat} {gs more : List Group} {items : List Item}
    (h : itemsAfter n gs = some items) (hmore : NoReadFirst more) :
    itemsAfter n (gs ++ more) = (itemsAfter 0 more).map (items ++ ·) := by
  fun_induction itemsAfter n gs generalizing items with
  | case1 =>
    cases h
    simp
  | case2 n =>
    cases h
    cases more with
    | nil => rfl
    | cons g rest =>
      cases g with
      | read busy => exact absurd rfl (hmore busy rest)
      | xfer k b | wait c =>
        simp only [List.nil_append, itemsAfter, Option.map_map]
        rfl
  | case3 n rest ih =>
    rw [List.cons_append, itemsAfter]
    exact ih h
  | case4 => cases h
  | case5 n rest hrest ih =>
    obtain ⟨items', h', rfl⟩ := Option.map_eq_some_iff.mp h
    have hno : NoReadFirst (rest ++ more) := NoReadFirst.append hrest hmore
    rw [List.cons_append, itemsAfter, ih h', Option.map_map]
    · rfl
    · exact hno
  | case6 _ _ _ ih | case7 _ _ _ _ ih | case8 _ _ ih | case9 _ _ _ ih =>
    obtain ⟨items', h', rfl⟩ := Option.map_eq_some_iff.mp h
    simp only [List.cons_append, itemsAfter, ih h', Option.map_map]
    rfl

theorem itemsAfter_busy (n k : Nat) (more : List Group) :
    itemsAfter n (List.replicate k (.read true) ++ more) = itemsAfter (n + k) more := by
  induction k generalizing n with
  | zero => rfl
  | succ k ih =>
    rw [List.replicate_succ, List.cons_append, itemsAfter, ih, Nat.add_right_comm, Nat.add_assoc]

/-- Events appended to a trace that parses are parsed by themselves. -/
theorem transferTrace_append {old evs : List Event} {items : List Item} {gs : List Group}
    (h : transferTrace old = some items) (hgs : groups evs = some gs) (hno : NoReadFirst gs) :
    transferTrace (old ++ evs) = (itemsAfter 0 gs).map (items ++ ·) := by
  obtain ⟨gs', hold, hitems⟩ := Option.bind_eq_some_iff.mp h
  rw [transferTrace, groups_append hold, hgs]
  exact itemsAfter_append hitems hno

/-! ## Bytes of items -/

/-- The first of the items, if any, is no poll that timed out. -/
def NoTimeoutFirst (items : List Item) : Prop := ∀ n rest, items ≠ .polledOut n :: rest

theorem NoTimeoutFirst.append {items new : List Item} (h : NoTimeoutFirst items)
    (hnew : NoTimeoutFirst new) : NoTimeoutFirst (items ++ new) := by
  cases items with
  | nil => exact hnew
  | cons x items =>
    rintro n rest ⟨⟩
    exact h n items rfl

/-- Items appended to a trace add their own bytes and put no earlier one in doubt. -/
theorem busItems_append (items : List Item) {new : List Item} (hnew : NoTimeoutFirst new) :
    busItems (items ++ new) = busItems items ++ busItems new := by
  fun_induction busItems items with
  | case1 => rfl
  | case2 k b n rest ih => exact congrArg (⟨k, b, false⟩ :: ·) ih
  | case3 k b rest hrest ih =>
    have hno : NoTimeoutFirst (rest ++ new) := NoTimeoutFirst.append hrest hnew
    rw [List.cons_append, busItems, ih]
    · rfl
    · exact hno
  | case4 c rest ih | case5 n rest ih | case6 n rest ih => exact ih

/-! ## What a step appends -/

/-- The items of a poll are one, and it says whether the byte before it is in doubt (R105, R112 d,
R115). -/
theorem PollRun.item {n : Nat} {r : TransferEnd} {bs : List Bool} (hn : 1 ≤ n)
    (h : PollRun n r bs) (k : Kind) (b : Byte) :
    ∃ w, itemsAfter 0 (bs.map .read) = some [w] ∧
      busItems [.xfer k b, w] = [⟨k, b, r == .ok⟩] := by
  cases r with
  | ok =>
    obtain ⟨m, -, rfl⟩ := h
    refine ⟨.polled (m + 1), ?_, rfl⟩
    rw [List.map_append, List.map_replicate, itemsAfter_busy, Nat.zero_add]
    simp [itemsAfter]
  | timeout =>
    obtain ⟨m, rfl⟩ := Nat.exists_eq_add_of_le' hn
    obtain rfl : bs = List.replicate (m + 1) true := h
    refine ⟨.polledOut (m + 1), ?_, rfl⟩
    rw [List.map_replicate, ← List.append_nil (List.replicate _ _), itemsAfter_busy, Nat.zero_add]
    rfl

/-- A transfer appends the events of its byte and of one wait (R100, R112). -/
theorem transfer_item (k : Kind) (b : Byte) (f : Bool) (s : State) (hn : 1 ≤ s.params.pollLimit) :
    ∃ evs gs w, (transfer k b f s).2.trace = s.trace ++ (writeEvents s.modeBus8 k b ++ evs) ∧
      groups evs = some gs ∧ itemsAfter 0 gs = some [w] ∧
      busItems [.xfer k b, w] = [⟨k, b, (transfer k b f s).1 == .ok⟩] := by
  obtain ⟨bs, ans, d, hpoll, hfix, h⟩ := transfer_spec k b f s
  have htrace : (transfer k b f s).2.trace =
      s.trace ++ (writeEvents s.modeBus8 k b ++ waitEvents s (classOf k b) f bs) := by
    rw [h, List.append_assoc]
  cases hwait : f || !s.modePoll with
  | true =>
    refine ⟨_, [.wait (classOf k b)], .wait (classOf k b), htrace, ?_, rfl, ?_⟩
    · simp [waitEvents, hwait, groups]
    · rw [(hfix (by simpa using hwait)).1]
      rfl
  | false =>
    obtain ⟨w, hw, hbus⟩ := (hpoll (by simpa using hwait)).item hn k b
    refine ⟨_, bs.map .read, w, htrace, ?_, hw, hbus⟩
    simp [waitEvents, hwait, groups_pollEvents]

/-- From a trace that parses, `t` has one that continues it, and the bytes of what was added are
the bytes put on the bus (R112; 20_memory.md R57). -/
structure TraceContinued (s t : State) : Prop where
  params : t.params = s.params
  parsed : ∀ items, 1 ≤ s.params.pollLimit → transferTrace s.trace = some items →
    ∃ new, transferTrace t.trace = some (items ++ new) ∧ t.bus = s.bus ++ busItems new ∧
      NoTimeoutFirst new

theorem TraceContinued.of_eq {s t : State} (hparams : t.params = s.params)
    (htrace : t.trace = s.trace) (hbus : t.bus = s.bus) : TraceContinued s t :=
  ⟨hparams, fun items _ h => ⟨[], by simp [htrace, h], by simp [hbus, busItems], nofun⟩⟩

theorem TraceContinued.trans {s t u : State} (h : TraceContinued s t) (h' : TraceContinued t u) :
    TraceContinued s u := by
  refine ⟨h'.params.trans h.params, fun items hn hs => ?_⟩
  obtain ⟨new, ht, htb, hnew⟩ := h.parsed items hn hs
  obtain ⟨new', hu, hub, hnew'⟩ := h'.parsed _ (h.params ▸ hn) ht
  refine ⟨new ++ new', by rw [hu, List.append_assoc], ?_, hnew.append hnew'⟩
  rw [hub, htb, busItems_append new hnew', List.append_assoc]

theorem transfer_traceContinued (k : Kind) (b : Byte) (f : Bool) (s : State) :
    TraceContinued s (transfer k b f s).2 := by
  refine ⟨transfer_params k b f s, fun items hn hs => ?_⟩
  obtain ⟨evs, gs, w, htrace, hgs, hw, hbus⟩ := transfer_item k b f s hn
  have hg : groups (writeEvents s.modeBus8 k b ++ evs) = some (.xfer k b :: gs) := by
    rw [groups_writeEvents, hgs]
    rfl
  refine ⟨[.xfer k b, w], ?_, by rw [transfer_bus, hbus], nofun⟩
  rw [htrace, transferTrace_append hs hg nofun, itemsAfter, hw]
  rfl

theorem delay_traceContinued (s : State) (c : DelayClass) : TraceContinued s (s.delay c) := by
  refine ⟨rfl, fun items _ hs => ⟨[.wait c], ?_, (List.append_nil _).symm, nofun⟩⟩
  exact transferTrace_append (gs := [.wait c]) hs rfl nofun

theorem kept_traceContinued : Kept (fun _ _ => True) TraceContinued where
  refl _ := .of_eq rfl rfl rfl
  trans := .trans
  transfer k b f s _ := transfer_traceContinued k b f s
  cursor _ _ _ := .of_eq rfl rfl rfl

/-- Every operation of the host continues the trace, `INIT` from its power-up delay on. -/
theorem exec_traceContinued {i : Instr} {s t : State} (hi : i.isHostOp = true)
    (he : exec i s = .next t) : TraceContinued s t := by
  rcases init_or_not i with ⟨m, rfl⟩ | hn
  · have hinit : TraceContinued { s with mode := m } (initSequence { s with mode := m }) :=
      (delay_traceContinued _ .pwr).trans (kept_traceContinued.initSequence (fun _ _ _ => trivial)
        (fun _ _ _ => trivial) trivial (fun _ => trivial) _)
    rw [exec_init] at he
    cases he
    exact ⟨hinit.params, hinit.parsed⟩
  · obtain ⟨u, st, v, hu, rfl, -⟩ :=
      kept_traceContinued.exec_all (fun _ => .of_eq rfl rfl rfl) hi hn he
    exact ⟨hu.params, hu.parsed⟩

/-- Settles O12: the device's byte leaves the trace alone, and every operation of the host continues
it. -/
theorem everyStepKeepsTheTraceParsed : Obligations.EveryStepKeepsTheTraceParsed := by
  intro s t items hn hs he
  cases hb : s.bus with
  | cons x rest =>
    rw [step_device hb, acceptItem_eq] at he
    cases he
    exact ⟨[], by simpa using hs, nofun, fun _ => ⟨rfl, rfl⟩⟩
  | nil =>
    have hcont : TraceContinued s t := by
      rcases step_host_cases hb he with ⟨i, reqs, u, reqs', hi, hu, rfl⟩ | ⟨reqs, st, v, rfl⟩
      · have h := exec_traceContinued hi hu
        exact ⟨h.params, h.parsed⟩
      · exact .of_eq rfl rfl rfl
    obtain ⟨new, ht, hbus, -⟩ := hcont.parsed items hn hs
    exact ⟨new, ht, fun _ => by rw [hbus, hb, List.nil_append], fun h => absurd rfl h⟩

end Sys2Proof.Machine
end

section
/-! SUPPORT. The closed form of a transfer (40_transport.md R100 to R106): the machine's `transfer`
is `sentFixed` or `sentPolled`, and its outcome is `timesOut`. -/

namespace Sys2Proof.Machine

/-! ## Busy reads -/

/-- The state after `n` busy reads (R106, R107), pins at rest. -/
def afterReads (n : Nat) (s : State) : State :=
  { s with
    pinRs := false, pinRw := false, pinE := false, pinDb := .released,
    trace := s.trace ++ pollEvents s.modeBus8 ((List.range n).map s.answerAt),
    answers := s.answers.drop n, draws := s.draws + (n - s.answers.length) }

/-- One busy read takes the next answer, listed or free. -/
theorem busyRead_eq (s : State) : s.busyRead = (s.answerAt 0, afterReads 1 s) := by
  cases h : s.answers with
  | nil => simp [busyRead_free h, afterRead, afterReads, State.answerAt, pollEvents, h]
  | cons b rest => simp [busyRead_listed h, afterRead, afterReads, State.answerAt, pollEvents, h]

/-- The free values drawn by `m` reads and by `n` more are those drawn by all of them. -/
theorem draws_add (m n len : Nat) : m - len + (n - (len - m)) = m + n - len := by omega

/-- After `m` reads the answers are the later ones. -/
theorem answerAt_afterReads (m n : Nat) (s : State) :
    (afterReads m s).answerAt n = s.answerAt (m + n) := by
  simp [State.answerAt, afterReads, Nat.add_assoc, draws_add]

theorem afterReads_afterReads (m n : Nat) (s : State) :
    afterReads n (afterReads m s) = afterReads (m + n) s := by
  have hanswers : (List.range (m + n)).map s.answerAt =
      (List.range m).map s.answerAt ++ (List.range n).map (afterReads m s).answerAt := by
    simp [List.range_add, answerAt_afterReads]
  rw [afterReads.eq_def (m + n), hanswers, afterReads.eq_def n]
  generalize (afterReads m s).answerAt = later
  simp [afterReads, pollEvents, State.modeBus8, Nat.add_assoc, draws_add]

/-- The number of busy answers before the first ready one of the next `n`. -/
def readyWithin (n : Nat) (s : State) : Option Nat :=
  (List.range n).find? (fun i => !s.answerAt i)

theorem readyWithin_succ (n : Nat) (s : State) :
    readyWithin (n + 1) s =
      if s.answerAt 0 then (readyWithin n (afterReads 1 s)).map (· + 1) else some 0 := by
  rw [readyWithin, List.range_succ_eq_map, List.find?_cons, List.find?_map]
  cases s.answerAt 0 <;> simp [readyWithin, answerAt_afterReads, Nat.add_comm]

/-- A poll ends at the first ready answer, or makes all its reads (R105). -/
theorem poll_succ (n : Nat) (s : State) :
    poll (n + 1) s =
      (if (readyWithin (n + 1) s).isNone then .timeout else .ok,
        afterReads (((readyWithin (n + 1) s).map (· + 1)).getD (n + 1)) s) := by
  induction n generalizing s with
  | zero =>
    rw [poll, busyRead_eq, readyWithin_succ]
    cases s.answerAt 0 <;> rfl
  | succ n ih =>
    rw [poll, busyRead_eq, readyWithin_succ]
    cases s.answerAt 0 with
    | false => rfl
    | true =>
      simp only [if_true, ih, Option.isNone_map]
      cases readyWithin (n + 1) (afterReads 1 s) <;> simp [afterReads_afterReads, Nat.add_comm]

/-! ## A transfer -/

theorem State.reads_eq (s : State) :
    s.reads = (s.firstReady.map (· + 1)).getD s.params.pollLimit := by
  unfold State.reads
  cases s.firstReady <;> rfl

/-- The poll of a handshake ends and reads as the state says (R105). -/
theorem poll_eq (s : State) (h : 1 ≤ s.params.pollLimit) :
    poll s.params.pollLimit s =
      (if s.firstReady.isNone then .timeout else .ok, afterReads s.reads s) := by
  obtain ⟨n, hn⟩ := Nat.exists_eq_add_of_le' h
  rw [State.reads_eq, State.firstReady, hn]
  exact poll_succ n s

/-- A strobe leaves alone what a poll reads. -/
theorem strobe_params (kind : Kind) (byte : Byte) (s : State) :
    (s.strobe kind byte).params = s.params := by
  rw [strobe_eq]

theorem strobe_firstReady (kind : Kind) (byte : Byte) (s : State) :
    (s.strobe kind byte).firstReady = s.firstReady := by
  rw [strobe_eq]
  rfl

theorem strobe_reads (kind : Kind) (byte : Byte) (s : State) :
    (s.strobe kind byte).reads = s.reads := by
  rw [State.reads_eq, State.reads_eq, strobe_firstReady, strobe_params]

theorem sentPolled_eq (kind : Kind) (byte : Byte) (s : State) :
    sentPolled kind byte s =
      (afterReads s.reads (s.strobe kind byte)).toBus kind byte s.firstReady.isSome := by
  rw [strobe_eq]
  rfl

theorem transfer_eq_sentFixed {kind : Kind} {byte : Byte} {fixed : Bool} {s : State}
    (h : (fixed || !s.modePoll) = true) :
    transfer kind byte fixed s = (.ok, sentFixed kind byte s) := by
  rw [transfer_fixed h, strobe_eq]
  rfl

theorem transfer_eq_sentPolled {kind : Kind} {byte : Byte} {fixed : Bool} {s : State}
    (hn : 1 ≤ s.params.pollLimit) (h : (fixed || !s.modePoll) = false) :
    transfer kind byte fixed s =
      (if s.firstReady.isNone then .timeout else .ok, sentPolled kind byte s) := by
  have hpoll := poll_eq (s.strobe kind byte) (by rwa [strobe_params])
  rw [strobe_params, strobe_firstReady, strobe_reads] at hpoll
  rw [transfer_polled h, hpoll, sentPolled_eq]
  cases s.firstReady <;> rfl

/-- A transfer inside an operation is `sent`, and it is `timesOut` that says how it ends. -/
theorem transfer_eq_sent (kind : Kind) (byte : Byte) {s : State} (hn : 1 ≤ s.params.pollLimit) :
    transfer kind byte false s = (if s.timesOut then .timeout else .ok, sent kind byte s) := by
  cases hp : s.modePoll with
  | true =>
    rw [transfer_eq_sentPolled hn (by simp [hp])]
    simp [sent, State.timesOut, hp]
  | false =>
    rw [transfer_eq_sentFixed (by simp [hp])]
    simp [sent, State.timesOut, hp]

/-- `try Transfer` (60_exceptions.md R181) in closed form. -/
theorem tryTransfer_eq_sent (kind : Kind) (byte : Byte) {s : State}
    (hn : 1 ≤ s.params.pollLimit) :
    tryTransfer kind byte s =
      if s.timesOut then .raised .hardwareTimeout (sent kind byte s)
      else .on (sent kind byte s) := by
  rw [tryTransfer, transfer_eq_sent kind byte hn]
  cases s.timesOut <;> rfl

/-- Settles O9: the wait is a delay or a poll, and the poll stops at the first ready answer. -/
theorem transferIsStrobeThenHandshake : Obligations.TransferIsStrobeThenHandshake :=
  fun _ _ _ _ hn => ⟨fun h => transfer_eq_sentFixed (by simpa using h),
    fun hf hp => transfer_eq_sentPolled hn (by simp [hf, hp])⟩

/-- Settles O10: the kind decides, and for a command the byte. -/
theorem waitClassIsLongForClearAndHome : Obligations.WaitClassIsLongForClearAndHome := by
  intro kind byte
  cases kind with
  | command | data => simp [classOf]

end Sys2Proof.Machine
end

section
/-! SUPPORT. The raw transfer (40_transport.md R113, R114): `XFER` in closed form, what a raw
display-control byte does to the tracked flag, and a byte in doubt at the device. -/

namespace Sys2Proof.Machine

/-- The word of `XFER` as 30_encoding.md R72 writes it decodes to it. -/
theorem decodeOp_xfer (kind : Kind) (byte : Byte) :
    decodeOp (0xA000 ||| ((bit1 kind.level).setWidth 16 <<< 8) ||| byte.setWidth 16) =
      .ok (.xfer kind byte) := by
  have hword : 0xA000 ||| ((bit1 kind.level).setWidth 16 <<< 8) ||| byte.setWidth 16 =
      opWord 0xA ((bit1 kind.level).setWidth 4) byte :=
    congrArg (· ||| byte.setWidth 16) (by cases kind <;> decide)
  rw [hword]
  exact decode_encode_hostOp (i := .xfer kind byte) rfl

theorem exec_xfer_ready (kind : Kind) (byte : Byte) {s : State} (hs : s.inited = true) :
    exec (.xfer kind byte) s = .next (tryTransfer kind byte s).finish := by
  rw [exec, execXfer, requireReady_ready hs]
  rfl

/-- Settles O11: the encoding, the gate, and the two ends of the one transfer. -/
theorem xferSendsOneRawByte : Obligations.XferSendsOneRawByte := by
  refine fun kind byte s hn => ⟨decodeOp_xfer kind byte, fun hs => exec_rejected rfl nofun hs,
    fun hs ht => ?_, fun hs ht => ?_⟩
  all_goals
    rw [exec_xfer_ready kind byte hs, tryTransfer_eq_sent kind byte hn, ht]
    rfl

/-! ## The display bit and the flag (R114; 70_reset_and_hazards.md R210) -/

theorem exec_togglePower_ready {s : State} (hs : s.inited = true) :
    exec .togglePower s = .next (togglePower s).finish := by
  rw [exec, execTogglePower, requireReady_ready hs]
  rfl

/-- A single transfer puts its byte on the bus, in doubt where the operation fails (R115). -/
theorem tryTransfer_finish_bus (kind : Kind) (byte : Byte) (s : State) :
    (tryTransfer kind byte s).finish.bus =
      s.bus ++ [⟨kind, byte, (tryTransfer kind byte s).finish.status == .ok⟩] := by
  unfold tryTransfer
  split <;> next h => simp [Flow.finish, h]

theorem exec_xfer_bus {kind : Kind} {byte : Byte} {s t : State} (hs : s.inited = true)
    (he : exec (.xfer kind byte) s = .next t) :
    t.bus = s.bus ++ [⟨kind, byte, t.status == .ok⟩] := by
  rw [exec_xfer_ready kind byte hs] at he
  cases he
  exact tryTransfer_finish_bus kind byte s

theorem exec_togglePower_bus {s t : State} (hs : s.inited = true)
    (he : exec .togglePower s = .next t) :
    t.bus = s.bus ++
      [⟨.command, cmdDisplayByte (!s.pwrOn) s.modeCursor s.modeBlink, t.status == .ok⟩] := by
  rw [exec_togglePower_ready hs] at he
  cases he
  exact tryTransfer_finish_bus ..

/-- A display-control byte, taken or lost, keeps a display bit that it does not change. -/
theorem Device.after_display_dispD {d : Device} {on : Bool} (h : d.dispD = on)
    (cursor blink sure : Bool) :
    (d.after ⟨.command, cmdDisplayByte on cursor blink, sure⟩).dispD = on := by
  cases sure with
  | true => exact congrArg Device.dispD (Device.after_display d on cursor blink)
  | false =>
    rw [Device.after_doubtful _ _ rfl]
    split
    · exact congrArg Device.dispD (Device.after_display _ on cursor blink)
    · exact h

/-- The byte sent last is the last that reaches the device. -/
theorem drained_device_of_bus {s t : State} {x : BusItem} (hbus : t.bus = s.bus ++ [x])
    (hdevice : t.device = s.device) : t.drained.device = s.drained.device.after x := by
  rw [drained_device, drained_device, hbus, hdevice, Device.afterAll_append]
  rfl

/-- Settles O52: the raw byte is the last that reaches the device, and the toggle sends its display
bit again. -/
theorem rawDisplayControlMakesTheFlagStale : Obligations.RawDisplayControlMakesTheFlagStale := by
  intro on cursor blink s t _ hs he
  have hframe := exec_framed (i := .xfer _ _) rfl nofun he
  have hpwr := exec_pwrOn (i := .xfer _ _) rfl nofun nofun he
  obtain ⟨hcol, hrow⟩ := exec_cursor (.inr (.inr ⟨_, _, rfl⟩)) he
  refine ⟨hpwr, hcol, hrow, hframe.mode, fun hok => ?_⟩
  have hbus := exec_xfer_bus hs he
  rw [hok] at hbus
  have hdevice : t.drained.device = s.drained.device.displayControl on cursor blink :=
    (drained_device_of_bus hbus hframe.device).trans (Device.after_display ..)
  have hon : t.drained.device.dispD = on := congrArg Device.dispD hdevice
  refine ⟨hdevice, ?_, fun hne u hu => ?_⟩
  · rw [State.StaleToggle, hon, hpwr]
    exact ne_comm
  · have hflip : (!t.pwrOn) = on := by rw [hpwr, Bool.eq_not_of_ne hne]
    have hubus := exec_togglePower_bus (hframe.inited.trans hs) hu
    rw [hflip, State.modeCursor, State.modeBlink, hframe.mode] at hubus
    have huframe := exec_framed (i := .togglePower) rfl nofun hu
    have hudevice := drained_device_of_bus hubus huframe.device
    refine ⟨hubus, ?_, fun huok => ?_⟩
    · rw [hudevice]
      exact Device.after_display_dispD hon _ _ _
    · rw [hudevice, huok, ← hon]
      exact Device.after_display ..

/-! ## A byte whose poll timed out (R115; log 25) -/

/-- Settles O39: either way the step is the byte reaching the device, and the free value is all that
separates it from the same byte without doubt. -/
theorem doubtfulByteIsTakenOrLost : Obligations.DoubtfulByteIsTakenOrLost := by
  intro s x rest hb t
  have hlost : (BusItem.doubtful x).sure = false := rfl
  rw [step_device hb, step_device (s := { t with bus := { x with sure := true } :: rest }) rfl,
    acceptItem_eq, acceptItem_eq, Device.after_doubtful _ _ hlost]
  unfold Device.takesDoubtful
  split
  · rfl
  · rfl

end Sys2Proof.Machine
end

section
/-! SUPPORT. Addressing and the cursor (41_addressing_cursor.md R130 to R139): the address of a
position, `move_to` in closed form, and from it `MOVE_TO`, the homes and the step after a write; then
the count of `REMAIN`. -/

namespace Sys2Proof.Machine

/-! ## The address of a position (R130, R131; 00_scope.md R5) -/

theorem rowBase_clampRow (p : Params) (row : Nibble) :
    rowBase p (clampRow row) = if row = 1 then p.rowBase1 else p.rowBase0 := by
  unfold clampRow
  split <;> rfl

/-- In either row of legal parameters a column on the display does not carry out of the address. -/
theorem rowBase_add_lt {p : Params} {col : Nat} (hp : p.Legal) (hcol : col < 24) (row : Nibble) :
    (rowBase p (clampRow row)).toNat + col < 128 := by
  obtain ⟨hgap, hend, -⟩ := hp
  simp only [Config.cols, Config.lastCol] at hgap hend
  rw [rowBase_clampRow]
  split <;> omega

theorem resolve_toNat {p : Params} {col : Byte} (hp : p.Legal) (hcol : col.toNat < 24)
    (row : Nibble) :
    (resolve p col row).toNat = (rowBase p (clampRow row)).toNat + col.toNat := by
  have hlt := rowBase_add_lt hp hcol row
  simp only [resolve, BitVec.toNat_add, BitVec.toNat_setWidth]
  omega

/-- Row 1 of legal parameters starts after the cell one past the end of row 0. -/
theorem lineGap_gt {p : Params} (hp : p.Legal) : 24 < p.lineGap := by
  obtain ⟨hgap, -, -⟩ := hp
  simp only [Config.cols] at hgap
  unfold Params.lineGap
  omega

theorem configParams_legal : Config.params.Legal :=
  ⟨by decide, by decide, Nat.le_add_left 1 Config.pollMore⟩

/-- Settles O13: no carry in either row, and a gap of more than a row. -/
theorem resolveIsRowBasePlusColumn : Obligations.ResolveIsRowBasePlusColumn := by
  refine ⟨fun p col row hp hcol => ?_, fun p hp => (lineGap_gt hp).ne', rfl, configParams_legal⟩
  rw [resolve_toNat hp hcol, rowBase_clampRow, apply_ite BitVec.toNat]

/-! ## `move_to` in closed form (R132) -/

theorem clampRow_rowOperand : ∀ row, clampRow (rowOperand row) = row := by decide

/-- The byte that `move_to` sends is the set-DDRAM-address of the position (R84). -/
theorem cmdSetDdramByte_resolve (p : Params) (col : Byte) (row : BitVec 1) :
    cmdSetDdramByte (resolve p col (rowOperand row)) = (addressItem p col.toNat row).byte := by
  rw [resolve, clampRow_rowOperand, ← BitVec.ofNat_toNat]
  rfl

/-- The state after the cursor went to a position and its address was sent, whether or not the
transfer timed out (R132). -/
def State.sentTo (s : State) (col : Nat) (row : BitVec 1) : State :=
  (sent .command (addressItem s.params col row).byte s).setCursor (BitVec.ofNat 5 col) row

/-- How `move_to` ends on a position of the display (R132; 60_exceptions.md R181). -/
def State.movedTo (s : State) (col : Nat) (row : BitVec 1) : Flow :=
  if s.timesOut then .raised .hardwareTimeout (s.sentTo col row) else .on (s.sentTo col row)

/-- A transfer takes no notice of the cursor. -/
theorem tryTransfer_setCursor (kind : Kind) (byte : Byte) (col : BitVec 5) (row : BitVec 1)
    {s : State} (hn : 1 ≤ s.params.pollLimit) :
    tryTransfer kind byte (s.setCursor col row) =
      if s.timesOut then .raised .hardwareTimeout ((sent kind byte s).setCursor col row)
      else .on ((sent kind byte s).setCursor col row) := by
  rw [← sent_setCursor]
  exact tryTransfer_eq_sent kind byte (s := s.setCursor col row) hn

theorem moveTo_off_display {col : Byte} (row : Nibble) (s : State) (hcol : 24 ≤ col.toNat) :
    moveTo col row s = .raised .invalidPosition s := if_pos hcol

theorem moveTo_eq_movedTo {col : Byte} (row : Nibble) {s : State} (hn : 1 ≤ s.params.pollLimit)
    (hcol : col.toNat < 24) : moveTo col row s = s.movedTo col.toNat (clampRow row) := by
  have hon : ¬Config.cols ≤ col.toNat := Nat.not_le.mpr hcol
  rw [moveTo, if_neg hon, cmdSetDdramByte_resolve,
    tryTransfer_setCursor _ _ _ _ hn, ← BitVec.ofNat_toNat]
  rfl

theorem movedTo_finish (s : State) (col : Nat) (row : BitVec 1) :
    (s.movedTo col row).finish =
      { s.sentTo col row with
        status := if s.timesOut then .hardwareTimeout else .ok, result := 0 } := by
  unfold State.movedTo
  cases s.timesOut <;> rfl

/-! ## `MOVE_TO` and the homes (R133 to R135) -/

/-- The word of `MOVE_TO` as 30_encoding.md R72 writes it decodes to it. -/
theorem decodeOp_moveTo (col : Byte) (row : Nibble) :
    decodeOp (0x3000 ||| (row.setWidth 16 <<< 8) ||| col.setWidth 16) = .ok (.moveTo col row) :=
  decode_encode_hostOp (i := .moveTo col row) rfl

theorem exec_moveTo_ready (col : Byte) (row : Nibble) {s : State} (hs : s.inited = true) :
    exec (.moveTo col row) s = .next (moveTo col row s).finish := by
  rw [exec, execMoveTo, requireReady_ready hs]
  rfl

/-- `MOVE_TO` of a Ready block to a position of the display (R133). -/
theorem exec_moveTo_on_display {col : Byte} (row : Nibble) {s : State} (hs : s.inited = true)
    (hn : 1 ≤ s.params.pollLimit) (hcol : col.toNat < 24) :
    exec (.moveTo col row) s = .next
      { s.sentTo col.toNat (clampRow row) with
        status := if s.timesOut then .hardwareTimeout else .ok, result := 0 } := by
  rw [exec_moveTo_ready col row hs, moveTo_eq_movedTo row hn hcol, movedTo_finish]

theorem exec_homeTop (s : State) : exec .homeTop s = exec (.moveTo 0 0) s := rfl

theorem exec_homeBot (s : State) : exec .homeBot s = exec (.moveTo 0 1) s := rfl

/-- Settles O14: the gate, the column check, and `move_to` in closed form. -/
theorem moveToGoesToTheClampedPosition : Obligations.MoveToGoesToTheClampedPosition := by
  refine fun col row s hn => ⟨decodeOp_moveTo col row, fun hs => exec_rejected rfl nofun hs,
    fun hs hcol => ?_, fun hs hcol => exec_moveTo_on_display row hs hn hcol⟩
  rw [exec_moveTo_ready col row hs, moveTo_off_display row s hcol]
  rfl

/-- Settles O15: each home is `MOVE_TO` to the start of its row. -/
theorem homesGoToTheRowStarts : Obligations.HomesGoToTheRowStarts := by
  refine fun s hn => ⟨rfl, rfl, fun hs => ⟨exec_rejected rfl nofun hs, exec_rejected rfl nofun hs⟩,
    fun hs => ⟨?_, ?_⟩⟩
  · exact (exec_homeTop s).trans (exec_moveTo_on_display 0 hs hn (by decide))
  · exact (exec_homeBot s).trans (exec_moveTo_on_display 1 hs hn (by decide))

/-! ## The step after a write (R136, R137) -/

theorem advanceAfterWrite_plain {s : State} (h : s.curCol.toNat < Config.lastCol) :
    advanceAfterWrite s = .on { s with curCol := s.curCol + 1 } := if_pos h

/-- At the end of a row the cursor wraps or stays, and the address is sent again either way. -/
theorem advanceAfterWrite_rowFull {s : State} (hn : 1 ≤ s.params.pollLimit)
    (h : s.curCol.toNat = Config.lastCol) :
    advanceAfterWrite s =
      s.movedTo (afterRowFull s.modeWrap s.curRow).1 (afterRowFull s.modeWrap s.curRow).2 := by
  rw [advanceAfterWrite, if_neg h.not_lt, afterRowFull]
  cases s.modeWrap && s.curRow == 0 with
  | true => exact moveTo_eq_movedTo (col := 0) 1 hn (by decide)
  | false =>
    have hstay := moveTo_eq_movedTo (col := lastColOperand) (rowOperand s.curRow) hn (by decide)
    rw [clampRow_rowOperand] at hstay
    exact hstay

/-- Settles O16: the plain step, or `move_to` the position after a full row. -/
theorem advanceStepsWrapsOrSaturates : Obligations.AdvanceStepsWrapsOrSaturates := by
  refine fun s hn _ => ⟨fun h => advanceAfterWrite_plain (Nat.lt_succ_of_le h), fun h => ?_⟩
  rw [advanceAfterWrite_rowFull hn h]
  by_cases hwrap : s.modeWrap = true ∧ s.curRow = 0
  · simp only [afterRowFull, hwrap]
    rfl
  · have hstay : (s.modeWrap && s.curRow == 0) = false := by simpa using hwrap
    simp only [afterRowFull, hstay, if_neg hwrap]
    rfl

/-! ## `REMAIN` (R139) -/

theorem remainingCapacity_toNat {s : State} (h : s.curCol.toNat ≤ Config.lastCol) :
    (remainingCapacity s).toNat = (if s.curRow = 0 then 48 else 24) - s.curCol.toNat := by
  unfold remainingCapacity
  split <;>
  · simp only [Config.lastCol, Config.capacity, Config.cols, Config.rows, colOperand,
      BitVec.toNat_sub, BitVec.toNat_setWidth, BitVec.toNat_ofNat] at h ⊢
    omega

/-- Settles O17: the gate and the count, which the range of the cursor keeps above 0. -/
theorem remainCountsTheCellsLeft : Obligations.RemainCountsTheCellsLeft := by
  refine ⟨rfl, fun s => ⟨fun hs => exec_rejected rfl nofun hs, fun hs hrange => ?_⟩⟩
  have hcol : s.curCol.toNat ≤ 23 := hrange hs
  refine ⟨remainingCapacity s, exec_remain_ready hs, remainingCapacity_toNat hcol, ?_⟩
  rw [remainingCapacity_toNat hcol]
  split <;> omega

end Sys2Proof.Machine
end

section
/-! SUPPORT. Display operations of one transfer or of fixed delays only (42_display_ops.md R150,
R151, R157, R160, R162): `INIT`, `CLEAR_ALL` and `TOGGLE_POWER` in closed form. -/

namespace Sys2Proof.Machine

/-- Settles O31: the end of every arm is a next state; only `REMAIN` looks at the gate first. -/
theorem everyInstructionEnds : Obligations.EveryInstructionEnds := by
  intro i s
  cases i with
  | remain =>
    rcases Bool.dichotomy s.inited with hs | hs
    · exact ⟨_, exec_rejected rfl nofun hs⟩
    · exact ⟨_, exec_remain_ready hs⟩
  | _ => exact ⟨_, rfl⟩

/-! ## `INIT` (R150, R151) -/

/-- A transfer of `INIT` waits a fixed delay, whatever the mode says. -/
theorem initTransfer_eq_sentFixed (byte : Byte) (s : State) :
    initTransfer byte s = sentFixed .command byte s := by
  rw [initTransfer, transfer_eq_sentFixed (Bool.true_or _)]

/-- The power-on sequence in closed form: the power-up delay and the four commands of the mode. -/
theorem initSequence_eq (s : State) :
    initSequence s =
      sentFixed .command (cmdEntryByte s.modeInc)
        (sentFixed .command 0x01
          (sentFixed .command (cmdDisplayByte true s.modeCursor s.modeBlink)
            (sentFixed .command (cmdFunctionByte s.modeBus8 s.modeTwoLine s.modeFont11)
              { s with trace := s.trace ++ [.dly .pwr] }))) := by
  simp only [initSequence, initTransfer_eq_sentFixed]
  rfl

theorem sentFixed_trace (kind : Kind) (byte : Byte) (s : State) :
    (sentFixed kind byte s).trace =
      s.trace ++ (writeEvents s.modeBus8 kind byte ++ [.dly (classOf kind byte)]) := by
  simp [sentFixed]

/-- A byte sent with a fixed delay is two groups (R112). -/
theorem groups_fixed (bus8 : Bool) (kind : Kind) (byte : Byte) (c : DelayClass)
    (more : List Event) :
    groups (writeEvents bus8 kind byte ++ ([.dly c] ++ more)) =
      (groups more).map ([.xfer kind byte, .wait c] ++ ·) := by
  rw [groups_writeEvents, List.singleton_append, groups, Option.map_map]
  rfl

theorem classOf_cmdFunctionByte : ∀ bus8 two font11,
    classOf .command (cmdFunctionByte bus8 two font11) = .short := by decide

theorem classOf_cmdDisplayByte : ∀ on cursor blink,
    classOf .command (cmdDisplayByte on cursor blink) = .short := by decide

theorem classOf_cmdEntryByte : ∀ inc, classOf .command (cmdEntryByte inc) = .short := by decide

/-- The pin events of the power-on sequence are nine groups (R112, R150). -/
theorem initSequence_groups (s : State) :
    ∃ evs, (initSequence s).trace = s.trace ++ evs ∧
      groups evs = some [.wait .pwr,
        .xfer .command (cmdFunctionByte s.modeBus8 s.modeTwoLine s.modeFont11), .wait .short,
        .xfer .command (cmdDisplayByte true s.modeCursor s.modeBlink), .wait .short,
        .xfer .command 0x01, .wait .long,
        .xfer .command (cmdEntryByte s.modeInc), .wait .short] := by
  rw [initSequence_eq]
  simp only [sentFixed_trace, List.append_assoc]
  refine ⟨_, rfl, ?_⟩
  rw [List.singleton_append, groups, groups_fixed, groups_fixed, groups_fixed,
    ← List.append_nil [Event.dly (classOf .command (cmdEntryByte s.modeInc))], groups_fixed,
    classOf_cmdFunctionByte, classOf_cmdDisplayByte, classOf_cmdEntryByte]
  rfl

/-- The word of `INIT` as 30_encoding.md R72 writes it decodes to it. -/
theorem decodeOp_init (mode : Byte) :
    decodeOp (0x1000 ||| mode.setWidth 16) = .ok (.init mode) :=
  decode_encode_hostOp (i := .init mode) rfl

/-- Settles O18: the power-on sequence in closed form, and the groups of its pin events. -/
theorem initRunsThePowerOnSequence : Obligations.InitRunsThePowerOnSequence := by
  intro mode s
  refine ⟨decodeOp_init mode, _, exec_init mode s, ?_, ?_⟩
  · rw [initSequence_eq]
    rfl
  · obtain ⟨evs, htrace, hgroups⟩ := initSequence_groups { s with mode := mode }
    have hnew : (initSequence { s with mode := mode }).trace.drop s.trace.length = evs := by
      rw [htrace]
      exact List.drop_left
    simp only [hnew, transferTrace, hgroups]
    rfl

/-! ## `CLEAR_ALL` (R157) -/

theorem exec_clearAll_ready {s : State} (hs : s.inited = true) :
    exec .clearAll s = .next (((tryTransfer .command cmdClearByte s).andThen
      (fun t => .on (t.setCursor 0 0))).finish) := by
  rw [exec, execClearAll, requireReady_ready hs]
  rfl

/-- Settles O22: the gate, and the two ends of the one transfer. -/
theorem clearAllClearsThenHomes : Obligations.ClearAllClearsThenHomes := by
  refine fun s hn => ⟨rfl, fun hs => exec_rejected rfl nofun hs, fun hs ht => ?_, fun hs ht => ?_⟩
  all_goals
    rw [exec_clearAll_ready hs, tryTransfer_eq_sent .command cmdClearByte hn, ht]
    rfl

/-! ## `TOGGLE_POWER` (R160) -/

/-- A transfer takes no notice of the flag. -/
theorem sent_setPwrOn (kind : Kind) (byte : Byte) (on : Bool) (s : State) :
    sent kind byte { s with pwrOn := on } = { sent kind byte s with pwrOn := on } := by
  have hmode : State.modePoll { s with pwrOn := on } = s.modePoll := rfl
  rw [sent, sent, hmode]
  split <;> rfl

/-- The flag is flipped in both ends of the transfer. -/
theorem togglePower_eq {s : State} (hn : 1 ≤ s.params.pollLimit) :
    togglePower s =
      let t := { sent .command (cmdDisplayByte (!s.pwrOn) s.modeCursor s.modeBlink) s with
        pwrOn := !s.pwrOn }
      if s.timesOut then .raised .hardwareTimeout t else .on t := by
  rw [← sent_setPwrOn]
  exact tryTransfer_eq_sent .command _ (s := { s with pwrOn := !s.pwrOn }) hn

/-- Settles O24: one toggle in closed form; of two in a row the second sends the flag's first
value. -/
theorem togglePowerFlipsTheFlag : Obligations.TogglePowerFlipsTheFlag := by
  refine fun s hn => ⟨rfl, fun hs => exec_rejected rfl nofun hs, fun hs => ?_,
    fun hs t u ht hu => ?_⟩
  · rw [exec_togglePower_ready hs, togglePower_eq hn]
    cases s.timesOut <;> rfl
  · have hframe := exec_framed (i := .togglePower) rfl nofun ht
    have hready : t.inited = true := hframe.inited.trans hs
    obtain ⟨-, -, -, hflip, -⟩ := flagsAndModeHaveTheirWriters .togglePower s t ht
    obtain ⟨-, -, -, hflip', -⟩ := flagsAndModeHaveTheirWriters .togglePower t u hu
    have hpwr : (!t.pwrOn) = s.pwrOn := by rw [hflip rfl hs, Bool.not_not]
    have hcursor : t.modeCursor = s.modeCursor := congrArg (·.getLsbD 3) hframe.mode
    have hblink : t.modeBlink = s.modeBlink := congrArg (·.getLsbD 4) hframe.mode
    refine ⟨(hflip' rfl hready).trans hpwr, ?_⟩
    rw [exec_togglePower_bus hready hu, exec_togglePower_bus hs ht, hpwr, hcursor, hblink,
      List.append_assoc]
    rfl

end Sys2Proof.Machine
end

section
/-! SUPPORT. Sequences of transfers (60_exceptions.md R181), said once: a part of an operation that
sends a list of bytes in order and leaves the cursor at a position, or ends at its first timeout. -/

namespace Sys2Proof.Machine

section
variable (kind : Kind) (byte : Byte) (xs : List BusItem) (s : State)

theorem sent_modeWrap : (sent kind byte s).modeWrap = s.modeWrap := by
  rw [State.modeWrap, sent_mode, State.modeWrap]

theorem sentAll_modeWrap : (sentAll xs s).modeWrap = s.modeWrap := by
  rw [State.modeWrap, sentAll_mode, State.modeWrap]

theorem sentAll_setCursor (col : BitVec 5) (row : BitVec 1) :
    sentAll xs (s.setCursor col row) = (sentAll xs s).setCursor col row := by
  induction xs generalizing s with
  | nil => rfl
  | cons x xs ih =>
    show sentAll xs (sent x.kind x.byte (s.setCursor col row)) = _
    rw [sent_setCursor]
    exact ih (sent x.kind x.byte s)

theorem allReady_setCursor (col : BitVec 5) (row : BitVec 1) :
    allReady xs (s.setCursor col row) = allReady xs s := by
  induction xs generalizing s with
  | nil => rfl
  | cons x xs ih =>
    rw [allReady, allReady, sent_setCursor, ih]
    rfl

end

/-- A column before the last steps without a carry. -/
theorem curCol_step {s : State} (h : s.curCol.toNat < Config.lastCol) :
    (s.curCol + 1).toNat = s.curCol.toNat + 1 := by
  have hone : (1 : BitVec 5).toNat = 1 := rfl
  simp only [Config.lastCol, Config.cols] at h
  rw [BitVec.toNat_add, hone]
  omega

/-- From `s`, the flow has sent the bytes and gone on with the cursor at the position, or, where one
of the transfers times out, has ended there. -/
structure Sends (xs : List BusItem) (col : BitVec 5) (row : BitVec 1) (s : State) (f : Flow) :
    Prop where
  ready : allReady xs s = true → f = .on ((sentAll xs s).setCursor col row)
  timeout : allReady xs s = false → ∃ u, f = .raised .hardwareTimeout u

/-- What the next part of an operation reads of a state: the parameters and the mode are those of
`s`, and the cursor is at the position. -/
structure Continues (s : State) (col : BitVec 5) (row : BitVec 1) (u : State) : Prop where
  params : u.params = s.params
  wrap : u.modeWrap = s.modeWrap
  col : u.curCol = col
  row : u.curRow = row

theorem continues_sentAll (xs : List BusItem) (s : State) (col : BitVec 5) (row : BitVec 1) :
    Continues s col row ((sentAll xs s).setCursor col row) :=
  ⟨sentAll_params xs s, sentAll_modeWrap xs s, rfl, rfl⟩

namespace Sends

variable {xs ys : List BusItem} {col col' : BitVec 5} {row row' : BitVec 1} {s : State} {f : Flow}

theorem on (s : State) (col : BitVec 5) (row : BitVec 1) :
    Sends [] col row s (.on (s.setCursor col row)) := ⟨fun _ => rfl, nofun⟩

theorem andThen {k : State → Flow} (h : Sends xs col row s f)
    (hk : ∀ u, Continues s col row u → Sends ys col' row' u (k u)) :
    Sends (xs ++ ys) col' row' s (f.andThen k) := by
  have hk' := hk _ (continues_sentAll xs s col row)
  have hrest : allReady (xs ++ ys) s =
      (allReady xs s && allReady ys ((sentAll xs s).setCursor col row)) := by
    rw [allReady_append, allReady_setCursor]
  cases hxs : allReady xs s with
  | true =>
    rw [hxs, Bool.true_and] at hrest
    rw [h.ready hxs]
    refine ⟨fun hall => ?_, fun hall => hk'.timeout (hrest ▸ hall)⟩
    rw [Flow.andThen, hk'.ready (hrest ▸ hall), sentAll_setCursor, sentAll_append]
    rfl
  | false =>
    obtain ⟨u, rfl⟩ := h.timeout hxs
    rw [hxs, Bool.false_and] at hrest
    exact ⟨fun hall => by simp [hrest] at hall, fun _ => ⟨u, rfl⟩⟩

/-- The end of an operation whose transfers are all answered in time. -/
theorem finish (h : Sends xs col row s f) (hall : allReady xs s = true) :
    f.finish =
      { sentAll xs s with curCol := col, curRow := row, status := .ok, result := 0 } := by
  rw [h.ready hall]
  rfl

/-- Status 0 says that every transfer was answered in time. -/
theorem allReady_of_ok (h : Sends xs col row s f) (hok : f.finish.status = .ok) :
    allReady xs s = true := by
  by_contra hall
  obtain ⟨u, rfl⟩ := h.timeout (Bool.eq_false_of_not_eq_true hall)
  cases hok

end Sends

/-- A single transfer and the position of the cursor around it. -/
theorem Sends.single (x : BusItem) (col : BitVec 5) (row : BitVec 1) (s u : State) :
    Sends [x] col row s
      (if s.timesOut then .raised .hardwareTimeout u
        else .on ((sent x.kind x.byte s).setCursor col row)) := by
  cases ht : s.timesOut with
  | true => exact ⟨fun h => by simp [allReady, ht] at h, fun _ => ⟨u, rfl⟩⟩
  | false => exact ⟨fun _ => rfl, fun h => by simp [allReady, ht] at h⟩

theorem sends_movedTo (s : State) (col : Nat) (row : BitVec 1) :
    Sends [addressItem s.params col row] (BitVec.ofNat 5 col) row s (s.movedTo col row) :=
  Sends.single _ _ _ s _

section
variable {s : State} (hn : 1 ≤ s.params.pollLimit)
include hn

theorem sends_tryTransfer (kind : Kind) (byte : Byte) :
    Sends [⟨kind, byte, true⟩] s.curCol s.curRow s (tryTransfer kind byte s) := by
  have h := tryTransfer_setCursor kind byte s.curCol s.curRow hn
  rw [show s.setCursor s.curCol s.curRow = s from rfl] at h
  rw [h]
  exact Sends.single _ _ _ s _

/-- `move_to` a position of the display (41_addressing_cursor.md R132). -/
theorem sends_moveTo {col : Byte} (row : Nibble) (hcol : col.toNat < 24) :
    Sends [addressItem s.params col.toNat (clampRow row)] (BitVec.ofNat 5 col.toNat) (clampRow row)
      s (moveTo col row s) := by
  rw [moveTo_eq_movedTo row hn hcol]
  exact sends_movedTo s _ _

/-- A character before the last column: its byte, and a step (R136, R153). -/
theorem sends_write_plain (d : Byte) (hcol : s.curCol.toNat < Config.lastCol) :
    Sends [dataItem d] (s.curCol + 1) s.curRow s
      ((tryTransfer .data d s).andThen advanceAfterWrite) := by
  refine (sends_tryTransfer hn .data d).andThen (ys := []) fun u hu => ?_
  rw [advanceAfterWrite_plain (hu.col ▸ hcol), ← hu.col, ← hu.row]
  exact Sends.on _ _ _

/-- A character at the last column: its byte, and the address of the position after a full row
(R136, R137, R153). -/
theorem sends_write_rowFull (d : Byte) (hcol : s.curCol.toNat = Config.lastCol) :
    Sends [dataItem d, rowFullItem s.params s.modeWrap s.curRow]
      (BitVec.ofNat 5 (afterRowFull s.modeWrap s.curRow).1) (afterRowFull s.modeWrap s.curRow).2 s
      ((tryTransfer .data d s).andThen advanceAfterWrite) := by
  refine (sends_tryTransfer hn .data d).andThen
    (ys := [rowFullItem s.params s.modeWrap s.curRow]) fun u hu => ?_
  rw [advanceAfterWrite_rowFull (hu.params ▸ hn) (hu.col ▸ hcol), ← hu.params, ← hu.wrap, ← hu.row]
  exact sends_movedTo u _ _

end

end Sys2Proof.Machine
end

section
/-! SUPPORT. Writing characters (42_display_ops.md R153 to R155): `WRCH` in closed form, where a run
of successful writes leaves the cursor and which bytes it sends, and a string of the host. -/

namespace Sys2Proof.Machine

theorem exec_wrch_ready (d : Byte) {s : State} (hs : s.inited = true) :
    exec (.wrch d) s =
      .next ((tryTransfer .data d s).andThen advanceAfterWrite).finish := by
  rw [exec, execWrch, requireReady_ready hs]
  rfl

/-- The word of `WRCH` as 30_encoding.md R72 writes it decodes to it. -/
theorem decodeOp_wrch (d : Byte) : decodeOp (0x2000 ||| d.setWidth 16) = .ok (.wrch d) :=
  decode_encode_hostOp (i := .wrch d) rfl

/-- Settles O19: the gate, the two ends of the data byte, and after it the step of the cursor in
closed form. -/
theorem wrchWritesAndSteps : Obligations.WrchWritesAndSteps := by
  refine fun d s hn _ => ⟨decodeOp_wrch d, fun hs => exec_rejected rfl nofun hs, fun hs ht => ?_,
    fun hs ht hcol => ?_, fun hs ht hcol => ?_⟩
  all_goals rw [exec_wrch_ready d hs, tryTransfer_eq_sent .data d hn, ht]
  · rfl
  · have hplain : (sent .data d s).curCol.toNat < Config.lastCol := by
      rw [sent_curCol]
      exact Nat.lt_succ_of_le hcol
    rw [if_neg Bool.false_ne_true, Flow.andThen, advanceAfterWrite_plain hplain, sent_curCol]
    rfl
  · have hfull : (sent .data d s).curCol.toNat = Config.lastCol := by rwa [sent_curCol]
    have hn' : 1 ≤ (sent .data d s).params.pollLimit := by rwa [sent_params]
    rw [if_neg Bool.false_ne_true, Flow.andThen, advanceAfterWrite_rowFull hn' hfull,
      movedTo_finish, State.sentTo, sent_params, sent_modeWrap, sent_curRow]
    rfl

/-! ## Runs of successful writes (R154) -/

/-- From `s`, with the mode and the parameters it has, a Ready block has come to a position and has
sent the bytes. -/
structure Reached (s : State) (xs : List BusItem) (col : Nat) (row : BitVec 1) (t : State) :
    Prop where
  inited : t.inited = true
  wrap : t.modeWrap = s.modeWrap
  params : t.params = s.params
  col : t.curCol.toNat = col
  row : t.curRow = row
  bus : t.bus = s.bus ++ xs

theorem Reached.refl {s : State} (hs : s.inited = true) :
    Reached s [] s.curCol.toNat s.curRow s :=
  ⟨hs, rfl, rfl, rfl, rfl, (List.append_nil _).symm⟩

theorem Reached.trans {s t u : State} {xs ys : List BusItem} {col col' : Nat} {row row' : BitVec 1}
    (h : Reached s xs col row t) (h' : Reached t ys col' row' u) :
    Reached s (xs ++ ys) col' row' u :=
  ⟨h'.inited, h'.wrap.trans h.wrap, h'.params.trans h.params, h'.col, h'.row,
    by rw [h'.bus, h.bus, List.append_assoc]⟩

/-- A flow that ends with status 0 has sent its bytes and reached its position. -/
theorem Sends.reached {xs : List BusItem} {col : BitVec 5} {row : BitVec 1} {s : State} {f : Flow}
    (h : Sends xs col row s f) (hs : s.inited = true) (hok : f.finish.status = .ok) :
    Reached s (xs.map (fun x => ⟨x.kind, x.byte, true⟩)) col.toNat row f.finish := by
  have hall := h.allReady_of_ok hok
  rw [h.finish hall]
  exact ⟨(sentAll_inited xs s).trans hs, sentAll_modeWrap xs s, sentAll_params xs s, rfl, rfl,
    sentAll_bus xs s hall⟩

/-- One successful `WRCH` before the last column. -/
theorem wrch_reached_plain {d : Byte} {s t : State} (hn : 1 ≤ s.params.pollLimit)
    (hs : s.inited = true) (he : exec (.wrch d) s = .next t) (hok : t.status = .ok)
    (hcol : s.curCol.toNat < 23) :
    Reached s [dataItem d] (s.curCol.toNat + 1) s.curRow t := by
  rw [exec_wrch_ready d hs] at he
  cases he
  rw [← curCol_step hcol]
  exact (sends_write_plain hn d hcol).reached hs hok

/-- One successful `WRCH` at the last column. -/
theorem wrch_reached_rowFull {d : Byte} {s t : State} (hn : 1 ≤ s.params.pollLimit)
    (hs : s.inited = true) (he : exec (.wrch d) s = .next t) (hok : t.status = .ok)
    (hcol : s.curCol.toNat = 23) :
    Reached s [dataItem d, rowFullItem s.params s.modeWrap s.curRow]
      (afterRowFull s.modeWrap s.curRow).1 (afterRowFull s.modeWrap s.curRow).2 t := by
  rw [exec_wrch_ready d hs] at he
  cases he
  have hpos : (BitVec.ofNat 5 (afterRowFull s.modeWrap s.curRow).1).toNat =
      (afterRowFull s.modeWrap s.curRow).1 := by
    unfold afterRowFull
    split <;> rfl
  have h := (sends_write_rowFull hn d hcol).reached hs hok
  rw [hpos] at h
  exact h

theorem afterRowFull_wraps : afterRowFull true 0 = (0, 1) := rfl

theorem afterRowFull_stays {wrap : Bool} {row : BitVec 1} (h : row = 1 ∨ wrap = false) :
    afterRowFull wrap row = (23, row) := by
  rcases h with rfl | rfl
  · cases wrap <;> rfl
  · rfl

/-- A string written to status 0 is a first character written to status 0, and the rest. -/
theorem writeString_cons_ok {c : Byte} {cs : List Byte} {s t : State}
    (h : writeString (c :: cs) s = .next t) (hok : t.status = .ok) :
    ∃ u, exec (.wrch c) s = .next u ∧ u.status = .ok ∧ writeString cs u = .next t := by
  obtain ⟨u, hu⟩ := everyInstructionEnds (.wrch c) s
  have he : execWrch c s = .next u := hu
  simp only [writeString, he] at h
  split at h
  · next hu' => exact ⟨u, hu, hu', h⟩
  · next hu' =>
    cases h
    exact absurd hok hu'

/-- Before the row is full a run sends its characters and nothing else. -/
theorem run_reached_short {cs : List Byte} {s t : State} (hn : 1 ≤ s.params.pollLimit)
    (hs : s.inited = true) (he : writeString cs s = .next t) (hok : t.status = .ok)
    (hcol : s.curCol.toNat + cs.length ≤ 23) :
    Reached s (cs.map dataItem) (s.curCol.toNat + cs.length) s.curRow t := by
  induction cs generalizing s with
  | nil =>
    cases he
    exact .refl hs
  | cons c cs ih =>
    obtain ⟨u, hu, huok, hrest⟩ := writeString_cons_ok he hok
    rw [List.length_cons] at hcol ⊢
    have h := wrch_reached_plain hn hs hu huok (by omega)
    have h' := ih (h.params ▸ hn) h.inited hrest (by rw [h.col]; omega)
    rw [h.col, h.row, Nat.add_right_comm, Nat.add_assoc] at h'
    exact h.trans h'

theorem pinnedRunItems_nil (p : Params) (row : BitVec 1) (col : Nat) :
    pinnedRunItems p row col [] = [] := by
  simp [pinnedRunItems]

theorem pinnedRunItems_plain (p : Params) (row : BitVec 1) {col : Nat} (c : Byte) (cs : List Byte)
    (h : col < 23) :
    pinnedRunItems p row col (c :: cs) = dataItem c :: pinnedRunItems p row (col + 1) cs := by
  have hleft : Config.lastCol - col = Config.lastCol - (col + 1) + 1 := by
    simp only [Config.lastCol, Config.cols]
    omega
  rw [pinnedRunItems, hleft]
  rfl

theorem pinnedRunItems_rowFull (p : Params) (row : BitVec 1) (c : Byte) (cs : List Byte) :
    pinnedRunItems p row 23 (c :: cs) =
      [dataItem c, addressItem p 23 row] ++ pinnedRunItems p row 23 cs := rfl

/-- Where the row does not wrap, a run that fills it stays pinned to its last column. -/
theorem run_reached_pinned {cs : List Byte} {s t : State} (hn : 1 ≤ s.params.pollLimit)
    (hs : s.inited = true) (he : writeString cs s = .next t) (hok : t.status = .ok)
    (hcol : s.curCol.toNat ≤ 23) (hstay : s.curRow = 1 ∨ s.modeWrap = false) :
    Reached s (pinnedRunItems s.params s.curRow s.curCol.toNat cs)
      (min 23 (s.curCol.toNat + cs.length)) s.curRow t := by
  induction cs generalizing s with
  | nil =>
    cases he
    rw [pinnedRunItems_nil, List.length_nil, Nat.add_zero, Nat.min_eq_right hcol]
    exact .refl hs
  | cons c cs ih =>
    obtain ⟨u, hu, huok, hrest⟩ := writeString_cons_ok he hok
    rcases Nat.lt_or_eq_of_le hcol with hlt | hfull
    · have h := wrch_reached_plain hn hs hu huok hlt
      have h' := ih (h.params ▸ hn) h.inited hrest (by rw [h.col]; omega)
        (by rwa [h.row, h.wrap])
      rw [h.params, h.col, h.row, Nat.add_right_comm, Nat.add_assoc] at h'
      rw [pinnedRunItems_plain _ _ _ _ hlt]
      exact h.trans h'
    · have h := wrch_reached_rowFull hn hs hu huok hfull
      rw [rowFullItem, afterRowFull_stays hstay] at h
      have h' := ih (h.params ▸ hn) h.inited hrest h.col.le (by rwa [h.row, h.wrap])
      rw [h.params, h.col, h.row, Nat.min_eq_left (Nat.le_add_right _ _)] at h'
      rw [hfull, pinnedRunItems_rowFull, Nat.min_eq_left (Nat.le_add_right _ _)]
      exact h.trans h'

/-- A run that fills row 0 of a wrapping block goes on from the start of row 1. -/
theorem run_reached_wrapped {cs : List Byte} {s t : State} (hn : 1 ≤ s.params.pollLimit)
    (hs : s.inited = true) (he : writeString cs s = .next t) (hok : t.status = .ok)
    (hcol : s.curCol.toNat ≤ 23) (hrow : s.curRow = 0) (hwrap : s.modeWrap = true)
    (hlen : 24 ≤ s.curCol.toNat + cs.length) :
    Reached s ((cs.take (24 - s.curCol.toNat)).map dataItem ++ [addressItem s.params 0 1] ++
        pinnedRunItems s.params 1 0 (cs.drop (24 - s.curCol.toNat)))
      (min 23 (cs.length - (24 - s.curCol.toNat))) 1 t := by
  induction cs generalizing s with
  | nil =>
    rw [List.length_nil] at hlen
    omega
  | cons c cs ih =>
    obtain ⟨u, hu, huok, hrest⟩ := writeString_cons_ok he hok
    rcases Nat.lt_or_eq_of_le hcol with hlt | hfull
    · have h := wrch_reached_plain hn hs hu huok hlt
      rw [List.length_cons] at hlen ⊢
      have h' := ih (h.params ▸ hn) h.inited hrest (by rw [h.col]; omega) (h.row.trans hrow)
        (h.wrap.trans hwrap) (by rw [h.col]; omega)
      have hleft : 24 - s.curCol.toNat = 24 - (s.curCol.toNat + 1) + 1 := by omega
      rw [h.params, h.col] at h'
      rw [hleft, Nat.add_sub_add_right]
      exact h.trans h'
    · have h := wrch_reached_rowFull hn hs hu huok hfull
      rw [rowFullItem, hrow, hwrap, afterRowFull_wraps] at h
      have h' := run_reached_pinned (h.params ▸ hn) h.inited hrest hok (by rw [h.col]; omega)
        (.inl h.row)
      rw [h.params, h.col, h.row, Nat.zero_add] at h'
      rw [hfull]
      exact h.trans h'

/-- Settles O20: the three runs; a run that is pinned has reached the last column. -/
theorem runOfWritesMovesTheCursor : Obligations.RunOfWritesMovesTheCursor := by
  refine fun cs s t hn hs hrange _ he hok => ⟨fun hlen => ?_, fun hlen hrow hwrap => ?_,
    fun hlen hstay => ?_⟩
  · have h := run_reached_short hn hs he hok hlen
    exact ⟨h.col, h.row, h.bus⟩
  · have h := run_reached_wrapped hn hs he hok (hrange hs) hrow hwrap hlen
    exact ⟨h.col, h.row, by simpa only [List.append_assoc] using h.bus⟩
  · have h := run_reached_pinned hn hs he hok (hrange hs) hstay
    rw [Nat.min_eq_left (by omega)] at h
    exact ⟨h.col, h.row, h.bus⟩

/-! ## A string of the host (R155; 30_encoding.md R89) -/

/-- Settles O21: the run of the host by its definition; in a step, the rest of the string is the
first request left over, and an error drops it. -/
theorem writeStringStopsAtTheFirstError : Obligations.WriteStringStopsAtTheFirstError := by
  refine ⟨fun _ => rfl, fun c cs s t he => ?_, fun s t c cs rest hb hh he => ?_⟩
  · have hc : execWrch c s = .next t := he
    rw [writeString, hc]
  · have hhost : t.host = .string cs :: rest := (exec_framed (i := .wrch c) rfl nofun he).host
    rw [step_char hb hh, he, mapNext, settleString, hhost]
    rfl

end Sys2Proof.Machine
end

section
/-! SUPPORT. The device under a run of equal data bytes, and the addresses of the visible cells
(20_memory.md R41, R61, R62). -/

namespace Sys2Proof.Machine

/-! ## A run of data bytes at the device (20_memory.md R61) -/

theorem Device.afterAll_replicate_succ (d : Device) (v : Byte) (n : Nat) :
    d.afterAll (List.replicate (n + 1) (dataItem v)) =
      (d.storeData v).afterAll (List.replicate n (dataItem v)) := rfl

theorem Device.storeData_ac_inc {d : Device} (v : Byte) (h : d.dir = .inc) :
    (d.storeData v).ac = d.ac + 1 := by
  simp [Device.storeData, Device.stepAc, h]

theorem ofNat_succ_address (i : Nat) :
    BitVec.ofNat 7 (i + 1) = 1 + BitVec.ofNat 7 i := by
  rw [BitVec.ofNat_add, BitVec.add_comm]
  rfl

/-- An address that a run of equal bytes with the counter stepping up does not pass keeps its
byte. -/
theorem Device.read_afterAll_replicate_other {d : Device} (v : Byte) {n : Nat} {a : Address}
    (hdir : d.dir = .inc) (ha : ∀ i < n, a ≠ d.ac + BitVec.ofNat 7 i) :
    (d.afterAll (List.replicate n (dataItem v))).ddram.read a = d.ddram.read a := by
  induction n generalizing d with
  | zero => rfl
  | succ n ih =>
    have hfirst : a ≠ d.ac := by simpa using ha 0 (Nat.succ_pos n)
    rw [Device.afterAll_replicate_succ, ih (d := d.storeData v) hdir fun i hi => ?_]
    · exact Memory.read_write_other d.ddram v hfirst
    · rw [Device.storeData_ac_inc v hdir, BitVec.add_assoc, ← ofNat_succ_address]
      exact ha (i + 1) (Nat.succ_lt_succ hi)

/-- Every address that the run passes holds the byte: written last, or written before and not
since. -/
theorem Device.read_afterAll_replicate {d : Device} (v : Byte) {n i : Nat} (hdir : d.dir = .inc)
    (hi : i < n) :
    (d.afterAll (List.replicate n (dataItem v))).ddram.read (d.ac + BitVec.ofNat 7 i) = v := by
  induction n generalizing d i with
  | zero => omega
  | succ n ih =>
    rw [Device.afterAll_replicate_succ]
    by_cases hlater : ∃ j < n, d.ac + BitVec.ofNat 7 i = (d.storeData v).ac + BitVec.ofNat 7 j
    · obtain ⟨j, hj, heq⟩ := hlater
      rw [heq]
      exact ih hdir hj
    · rw [Device.read_afterAll_replicate_other (d := d.storeData v) v hdir
        fun j hj heq => hlater ⟨j, hj, heq⟩]
      cases i with
      | zero =>
        rw [BitVec.add_zero]
        exact Memory.read_write_same d.ddram d.ac v
      | succ i =>
        refine absurd ⟨i, Nat.lt_of_succ_lt_succ hi, ?_⟩ hlater
        rw [Device.storeData_ac_inc v hdir, BitVec.add_assoc, ← ofNat_succ_address]

theorem Device.after_addressItem (d : Device) (p : Params) (col : Nat) (row : BitVec 1) :
    d.after (addressItem p col row) = d.setAddress (rowBase p row + BitVec.ofNat 7 col) :=
  Device.after_setDdram d _

@[simp] theorem Device.setAddress_ddram (d : Device) (a : Address) :
    (d.setAddress a).ddram = d.ddram := rfl

theorem Device.afterAll_cons (d : Device) (x : BusItem) (xs : List BusItem) :
    d.afterAll (x :: xs) = (d.after x).afterAll xs := rfl

theorem Device.afterAll_nil (d : Device) : d.afterAll [] = d := rfl

/-! ## The visible cells (20_memory.md R41, R62) -/

/-- The cells of legal parameters do not carry out of the address. -/
theorem cellAddress_toNat {p : Params} {col : Nat} (hp : p.Legal) (row : BitVec 1)
    (hcol : col < 24) :
    (rowBase p row + BitVec.ofNat 7 col).toNat = (rowBase p row).toNat + col := by
  have hlt := rowBase_add_lt hp hcol (rowOperand row)
  rw [clampRow_rowOperand] at hlt
  rw [BitVec.toNat_add, BitVec.toNat_ofNat]
  omega

theorem rows_of_ne : ∀ q r : BitVec 1, q ≠ r → q = 0 ∧ r = 1 ∨ q = 1 ∧ r = 0 := by decide

/-- The two rows of legal parameters have no cell in common. -/
theorem cellAddress_ne {p : Params} {q r : BitVec 1} {col col' : Nat} (hp : p.Legal) (hqr : q ≠ r)
    (hcol : col < 24) (hcol' : col' < 24) :
    (rowBase p q).toNat + col ≠ (rowBase p r).toNat + col' := by
  obtain ⟨hgap, -, -⟩ := hp
  simp only [Config.cols] at hgap
  rcases rows_of_ne q r hqr with ⟨rfl, rfl⟩ | ⟨rfl, rfl⟩
  · show p.rowBase0.toNat + col ≠ p.rowBase1.toNat + col'
    omega
  · show p.rowBase1.toNat + col ≠ p.rowBase0.toNat + col'
    omega

end Sys2Proof.Machine
end

section
/-! SUPPORT. `CLEAR_ROW` (42_display_ops.md R158): its 27 transfers, and what they make of the
device in a state of agreement (70_reset_and_hazards.md R213). -/

namespace Sys2Proof.Machine

/-! ## The 27 transfers -/

/-- The spaces that fill a row from a column on: one for each cell that is left, and the address of
the position after a full row. -/
theorem sends_writeSpaces {n : Nat} {s : State} (hn : 1 ≤ s.params.pollLimit)
    (hcol : s.curCol.toNat + n = Config.lastCol) :
    Sends (List.replicate (n + 1) (dataItem 0x20) ++ [rowFullItem s.params s.modeWrap s.curRow])
      (BitVec.ofNat 5 (afterRowFull s.modeWrap s.curRow).1) (afterRowFull s.modeWrap s.curRow).2 s
      (writeSpaces (n + 1) s) := by
  induction n generalizing s with
  | zero =>
    refine (sends_write_rowFull hn space hcol).andThen (ys := []) fun u hu => ?_
    rw [← hu.col, ← hu.row]
    exact Sends.on _ _ _
  | succ n ih =>
    have hplain : s.curCol.toNat < Config.lastCol := by omega
    refine (sends_write_plain hn space hplain).andThen
      (ys := List.replicate (n + 1) (dataItem 0x20) ++
        [rowFullItem s.params s.modeWrap s.curRow]) fun u hu => ?_
    have hcol' : u.curCol.toNat + n = Config.lastCol := by
      rw [hu.col, curCol_step hplain]
      omega
    rw [← hu.params, ← hu.wrap, ← hu.row]
    exact ih (hu.params ▸ hn) hcol'

/-- `move_to` the start of a row of the display, in the middle of an operation. -/
theorem sends_moveTo_rowStart {s u : State} (hn : 1 ≤ s.params.pollLimit)
    (hu : u.params = s.params) (r : BitVec 1) :
    Sends [addressItem s.params 0 r] 0 r u (moveTo 0 (rowOperand r) u) := by
  have h := sends_moveTo (col := 0) (s := u) (hu ▸ hn) (rowOperand r) (by decide)
  rw [clampRow_rowOperand, hu] at h
  exact h

/-- The body of `CLEAR_ROW` on a row of the display. -/
theorem sends_clearRow {s : State} (hn : 1 ≤ s.params.pollLimit) (r : BitVec 1) :
    Sends (clearRowItems s.params s.modeWrap r) 0 r s
      (((moveTo 0 (rowOperand r) s).andThen (writeSpaces Config.cols)).andThen
        (moveTo 0 (rowOperand r))) := by
  have hspaces : ∀ u, Continues s 0 r u →
      Sends (List.replicate Config.cols (dataItem 0x20) ++ [rowFullItem s.params s.modeWrap r])
        (BitVec.ofNat 5 (afterRowFull s.modeWrap r).1) (afterRowFull s.modeWrap r).2 u
        (writeSpaces Config.cols u) := by
    intro u hu
    rw [← hu.params, ← hu.wrap, ← hu.row]
    exact sends_writeSpaces (hu.params ▸ hn) (by rw [hu.col]; rfl)
  exact ((sends_moveTo_rowStart hn rfl r).andThen hspaces).andThen
    fun u hu => sends_moveTo_rowStart hn hu.params r

theorem exec_clearRow_ready (row : Nibble) {s : State} (hs : s.inited = true) :
    exec (.clearRow row) s =
      .next ((((moveTo 0 (rowOperand (clampRow row)) s).andThen (writeSpaces Config.cols)).andThen
        (moveTo 0 (rowOperand (clampRow row)))).finish) := by
  rw [exec, execClearRow, requireReady_ready hs]
  rfl

/-- The word of `CLEAR_ROW` as 30_encoding.md R72 writes it decodes to it. -/
theorem decodeOp_clearRow (row : Nibble) :
    decodeOp (0x7000 ||| (row.setWidth 16 <<< 8)) = .ok (.clearRow row) := by
  have hword : 0x7000 ||| (row.setWidth 16 <<< 8) = opWord 7 row 0 := BitVec.or_zero.symm
  rw [hword]
  exact decode_encode_hostOp (i := .clearRow row) rfl

/-- Settles O23: the gate, and the end of the transfers. -/
theorem clearRowMakesTwentySevenTransfers : Obligations.ClearRowMakesTwentySevenTransfers := by
  refine fun row s hn => ⟨decodeOp_clearRow row, rfl, fun hs => exec_rejected rfl nofun hs,
    fun hs hall => ?_⟩
  rw [exec_clearRow_ready row hs, (sends_clearRow hn (clampRow row)).finish hall]
  rfl

/-! ## What it makes of DDRAM (70_reset_and_hazards.md R213) -/

/-- What the 27 transfers make of DDRAM: from the start of the row 24 spaces are stored; the two
addresses after them store nothing. -/
theorem Device.ddram_after_clearRow (d : Device) (p : Params) (wrap : Bool) (r : BitVec 1) :
    (d.afterAll (clearRowItems p wrap r)).ddram =
      ((d.setAddress (rowBase p r)).afterAll
        (List.replicate Config.cols (dataItem 0x20))).ddram := by
  simp only [clearRowItems, rowFullItem, Device.afterAll_append, Device.afterAll_cons,
    Device.afterAll_nil, Device.after_addressItem, BitVec.add_zero, Device.setAddress_ddram]

/-- The 27 bytes of a successful `CLEAR_ROW` are the last that reach the device. -/
theorem clearRow_drained {row : Nibble} {s t : State} (hn : 1 ≤ s.params.pollLimit)
    (hs : s.inited = true) (he : exec (.clearRow row) s = .next t) (hok : t.status = .ok) :
    t.params = s.params ∧ t.drained.device =
      s.drained.device.afterAll (clearRowItems s.params s.modeWrap (clampRow row)) := by
  have hframe := exec_framed (i := .clearRow row) rfl nofun he
  rw [exec_clearRow_ready row hs] at he
  cases he
  have hbus := ((sends_clearRow hn (clampRow row)).reached hs hok).bus
  refine ⟨hframe.params, ?_⟩
  rw [drained_device, drained_device, hbus, hframe.device, Device.afterAll_append]
  rfl

/-- Settles O51: the 24 spaces are the only data bytes, stored from the start of the row upwards. -/
theorem clearRowBlanksItsRowOnly : Obligations.ClearRowBlanksItsRowOnly := by
  intro row s t hn hp hsync he hok r
  obtain ⟨hs, -, -, -, hdir, -⟩ := hsync
  obtain ⟨hparams, hdevice⟩ := clearRow_drained hn hs he hok
  have hblank : ∀ c < 24, t.drained.cell r c = 0x20 := by
    intro c hc
    rw [State.cell, drained_params, hparams, hdevice, Device.ddram_after_clearRow]
    exact Device.read_afterAll_replicate (d := s.drained.device.setAddress _) 0x20 hdir hc
  have hkept : ∀ a : Address, (∀ c < 24, a.toNat ≠ (rowBase s.params r).toNat + c) →
      t.drained.device.ddram.read a = s.drained.device.ddram.read a := by
    intro a ha
    rw [hdevice, Device.ddram_after_clearRow]
    refine Device.read_afterAll_replicate_other (d := s.drained.device.setAddress _) 0x20 hdir
      fun c hc heq => ha c hc ?_
    rw [heq]
    exact cellAddress_toNat hp _ hc
  refine ⟨hblank, ?_, hkept, fun q hq => ?_⟩
  · exact List.map_congr_left (g := fun _ => 0x20) fun c hc => hblank c (List.mem_range.mp hc)
  · refine List.map_congr_left fun c hc => ?_
    have hc' : c < 24 := List.mem_range.mp hc
    rw [State.cell, State.cell, drained_params, drained_params, hparams]
    refine hkept _ fun c' hc'' => ?_
    rw [cellAddress_toNat hp q hc']
    exact cellAddress_ne hp hq hc' hc''

end Sys2Proof.Machine
end

section
/-! SUPPORT. The errors of the operations (60_exceptions.md R180 to R188), said once: which of the
three an operation that does not end with status 0 has reported, and which of them are precise. -/

namespace Sys2Proof.Machine

/-! ## The codes and the response (R180; 30_encoding.md R70) -/

theorem Status.code_injective {a b : Status} (h : a.code = b.code) : a = b := by
  revert h
  cases a with
  | ok | hardwareTimeout | invalidPosition | precallSequenceViolation | illegalOperation =>
    cases b <;> decide

/-- Settles O25: the table of R180, and the two parts of the concatenation. -/
theorem statusCodesAndResponse : Obligations.StatusCodesAndResponse :=
  ⟨rfl, rfl, rfl, rfl, rfl, fun _ _ => Status.code_injective,
    fun _ => ⟨BitVec.extractLsb'_append_eq_left, BitVec.extractLsb'_append_eq_right⟩⟩

/-! ## Which errors an operation ends with -/

/-- An operation that ends with an error has raised it, and has done nothing after that (R181). -/
theorem Flow.raised_of_finish {f : Flow} {t : State} (he : (.next f.finish : Result) = .next t)
    (herr : t.status ≠ .ok) : ∃ u, f = .raised t.status u ∧ t = raise t.status u := by
  cases he
  cases f with
  | on u => exact absurd rfl herr
  | raised err u => exact ⟨u, rfl, rfl⟩

/-- On the display `move_to` can only time out (R182). -/
theorem moveTo_raised_on_display {col : Byte} {row : Nibble} {s u : State} {err : Status}
    (hcol : col.toNat < 24) (h : moveTo col row s = .raised err u) : err = .hardwareTimeout := by
  rcases moveTo_raised h with h | ⟨-, -, hoff⟩
  · exact h
  · exact absurd hcol (Nat.not_lt.mpr hoff)

theorem write_raised {d : Byte} {s u : State} {err : Status}
    (h : (tryTransfer .data d s).andThen advanceAfterWrite = .raised err u) :
    err = .hardwareTimeout := by
  rcases andThen_raised h with h | ⟨v, -, h⟩
  · exact (tryTransfer_raised h).1
  · exact advanceAfterWrite_raised h

theorem clearRow_raised {r : BitVec 1} {s u : State} {err : Status}
    (h : ((moveTo 0 (rowOperand r) s).andThen (writeSpaces Config.cols)).andThen
      (moveTo 0 (rowOperand r)) = .raised err u) : err = .hardwareTimeout := by
  rcases andThen_raised h with h | ⟨v, -, h⟩
  · rcases andThen_raised h with h | ⟨v, -, h⟩
    · exact moveTo_raised_on_display (by decide) h
    · exact writeSpaces_raised h
  · exact moveTo_raised_on_display (by decide) h

/-- A column off the display in a Ready block (R182). -/
theorem exec_moveTo_off_display {col : Byte} (row : Nibble) {s : State} (hs : s.inited = true)
    (hcol : 24 ≤ col.toNat) : exec (.moveTo col row) s = .next (raise .invalidPosition s) := by
  rw [exec_moveTo_ready col row hs, moveTo_off_display row s hcol]
  rfl

/-- In a Ready block every error but that of R182 is a timeout (R181). -/
theorem exec_error_ready {i : Instr} {s t : State} (hi : i.isHostOp = true) (hs : s.inited = true)
    (hcol : ∀ col row, i = .moveTo col row → col.toNat < 24) (he : exec i s = .next t)
    (herr : t.status ≠ .ok) : t.status = .hardwareTimeout := by
  have main : ∀ f : Flow, (∀ err u, f = .raised err u → err = .hardwareTimeout) →
      (.next f.finish : Result) = .next t → t.status = .hardwareTimeout := by
    intro f honly hf
    obtain ⟨u, hu, -⟩ := Flow.raised_of_finish hf herr
    exact honly _ u hu
  have moved : ∀ (col : Byte) (row : Nibble), col.toNat < 24 →
      exec (.moveTo col row) s = .next t → t.status = .hardwareTimeout := by
    intro col row hcol he
    rw [exec_moveTo_ready col row hs] at he
    exact main _ (fun _ _ => moveTo_raised_on_display hcol) he
  cases i with
  | init m =>
    cases he
    exact absurd rfl herr
  | wrch d =>
    rw [exec_wrch_ready d hs] at he
    exact main _ (fun _ _ => write_raised) he
  | moveTo col row => exact moved col row (hcol col row rfl) he
  | homeTop => exact moved 0 0 (by decide) he
  | homeBot => exact moved 0 1 (by decide) he
  | clearAll =>
    rw [exec_clearAll_ready hs] at he
    refine main _ (fun err u h => ?_) he
    rcases andThen_raised h with h | ⟨v, -, h⟩
    · exact (tryTransfer_raised h).1
    · cases h
  | clearRow row =>
    rw [exec_clearRow_ready row hs] at he
    exact main _ (fun _ _ => clearRow_raised) he
  | togglePower =>
    rw [exec_togglePower_ready hs] at he
    exact main _ (fun _ _ h => (tryTransfer_raised h).1) he
  | remain =>
    rw [exec_remain_ready hs] at he
    cases he
    exact absurd rfl herr
  | xfer kind byte =>
    rw [exec_xfer_ready kind byte hs] at he
    exact main _ (fun _ _ h => (tryTransfer_raised h).1) he
  | _ => cases hi

/-- The three ends of a host operation other than status 0, in the order of R187: rejected by the
gate, rejected for its column, or timed out. -/
theorem exec_error_cases {i : Instr} {s t : State} (hi : i.isHostOp = true)
    (he : exec i s = .next t) (herr : t.status ≠ .ok) :
    (s.inited = false ∧ t = raise .precallSequenceViolation s) ∨
    ((∃ col row, i = .moveTo col row ∧ 24 ≤ col.toNat) ∧ t = raise .invalidPosition s) ∨
    (s.inited = true ∧ (∀ col row, i = .moveTo col row → col.toNat < 24) ∧
      t.status = .hardwareTimeout) := by
  rcases init_or_not i with ⟨m, rfl⟩ | hn
  · cases he
    exact absurd rfl herr
  rcases Bool.dichotomy s.inited with hs | hs
  · rw [exec_rejected hi hn hs] at he
    cases he
    exact .inl ⟨hs, rfl⟩
  by_cases hoff : ∃ col row, i = .moveTo col row ∧ 24 ≤ col.toNat
  · obtain ⟨col, row, rfl, hcol⟩ := hoff
    rw [exec_moveTo_off_display row hs hcol] at he
    cases he
    exact .inr (.inl ⟨⟨col, row, rfl, hcol⟩, rfl⟩)
  · have hon : ∀ col row, i = .moveTo col row → col.toNat < 24 := fun col row h =>
      Nat.lt_of_not_le fun hcol => hoff ⟨col, row, h, hcol⟩
    exact .inr (.inr ⟨hs, hon, exec_error_ready hi hs hon he herr⟩)

/-- Only a block that is Ready times out, and never on a position off the display (R187). -/
theorem ready_of_timeout {i : Instr} {s t : State} (hi : i.isHostOp = true)
    (he : exec i s = .next t) (hst : t.status = .hardwareTimeout) :
    s.inited = true ∧ ∀ col row, i = .moveTo col row → col.toNat < 24 := by
  rcases exec_error_cases hi he (by simp [hst]) with ⟨-, rfl⟩ | ⟨-, rfl⟩ | ⟨hs, hon, -⟩
  · cases hst
  · cases hst
  · exact ⟨hs, hon⟩

/-! ## The statements -/

/-- Settles O26: the gate. -/
theorem operationsBeforeInitAreRejected : Obligations.OperationsBeforeInitAreRejected :=
  fun _ _ hi hn hs => exec_rejected hi hn hs

/-- Settles O27: of the three ends with an error only the second has this status. -/
theorem onlyMoveToReportsInvalidPosition : Obligations.OnlyMoveToReportsInvalidPosition := by
  refine ⟨fun i s t hi he hst => ?_, fun col row s hs hcol => exec_moveTo_off_display row hs hcol⟩
  rcases exec_error_cases hi he (by simp [hst]) with ⟨-, rfl⟩ | ⟨hmove, rfl⟩ | ⟨-, -, htimeout⟩
  · cases hst
  · exact ⟨hmove, rfl⟩
  · cases hst.symm.trans htimeout

/-- Settles O28: the decoder, the gate and the column, each where those before it let the word
pass. -/
theorem errorsFollowTheirPriority : Obligations.ErrorsFollowTheirPriority := by
  refine fun s w rest hb hh => ⟨fun e hd => step_reserved hb hh hd, fun i hd hn hs => ?_,
    fun col row hd hs hcol => ?_, fun t ht hst => ?_⟩
  · rw [step_word hb hh hd]
    exact exec_rejected (isHostOp_of_decodeOp hd) hn hs
  · rw [step_word hb hh hd]
    exact exec_moveTo_off_display row hs hcol
  · cases hd : decodeOp w with
    | error e =>
      rw [step_reserved hb hh hd] at ht
      cases ht
      cases hst
    | ok i =>
      rw [step_word hb hh hd] at ht
      obtain ⟨hs, hon⟩ := ready_of_timeout (isHostOp_of_decodeOp hd) ht hst
      exact ⟨hs, i, rfl, hon⟩

/-- Settles O30: errors 2 and 3 are raised before anything else is done, error 4 by no operation. -/
theorem earlyErrorsArePrecise : Obligations.EarlyErrorsArePrecise := by
  refine ⟨fun _ _ => rfl, fun i s t hi he hst => ?_, fun _ _ _ _ hb hh hd => step_reserved hb hh hd⟩
  have herr : t.status ≠ .ok := by rintro h; simp [h] at hst
  rcases exec_error_cases hi he herr with ⟨-, rfl⟩ | ⟨-, rfl⟩ | ⟨-, -, htimeout⟩
  · exact ⟨rfl, nofun⟩
  · exact ⟨rfl, nofun⟩
  · simp [htimeout] at hst

/-- The byte of a toggle in doubt gives the device the display bit it carries, or leaves it the old
one (40_transport.md R115). -/
theorem Device.after_doubtful_display_dispD (d : Device) (on cursor blink : Bool) :
    (d.after ⟨.command, cmdDisplayByte on cursor blink, false⟩).dispD =
      if Config.takesByte d.draws then on else d.dispD := by
  rw [Device.after_doubtful _ _ rfl, Device.takesDoubtful]
  split
  · exact congrArg Device.dispD (Device.after_display _ on cursor blink)
  · rfl

/-- Settles O53: the byte in doubt is the last that reaches the device, and carries the new flag. -/
theorem timedOutToggleMayLeaveTheFlagStale : Obligations.TimedOutToggleMayLeaveTheFlagStale := by
  intro s t hs he hst
  obtain ⟨-, -, -, hflip, -⟩ := flagsAndModeHaveTheirWriters .togglePower s t he
  have hpwr := hflip rfl hs
  have hbus := exec_togglePower_bus hs he
  rw [hst, ← hpwr] at hbus
  have hdisp : t.drained.device.dispD =
      if Config.takesByte s.drained.device.draws then t.pwrOn else s.drained.device.dispD :=
    (congrArg Device.dispD
      (drained_device_of_bus hbus (exec_framed (i := .togglePower) rfl nofun he).device)).trans
      (Device.after_doubtful_display_dispD ..)
  refine ⟨hpwr, hdisp, ?_⟩
  rw [State.StaleToggle, State.StaleToggle, hdisp, hpwr]
  cases Config.takesByte s.drained.device.draws with
  | true => simp
  | false => simp [Bool.eq_not]

end Sys2Proof.Machine
end

section
/-! SUPPORT. What an operation leaves behind when one of its transfers times out (60_exceptions.md
R190): the bytes sent before it, the byte in doubt, and where the cursor is, for each part of an
operation and then for each operation. -/

namespace Sys2Proof.Machine

/-- From `s`, a Ready block has sent the bytes and then one more, whose poll timed out; its cursor is
at the position, its mode polls and its pins are at rest. -/
structure Stopped (s : State) (xs : List BusItem) (x : BusItem) (col : Nat) (row : BitVec 1)
    (t : State) : Prop extends Reached s (xs ++ [x.doubtful]) col row t where
  polling : t.modePoll = true
  rest : t.PinsAtRest

/-- Bytes sent before the part that timed out. -/
theorem Reached.stopped {s t u : State} {xs ys : List BusItem} {x : BusItem} {col col' : Nat}
    {row row' : BitVec 1} (h : Reached s xs col row t) (h' : Stopped t ys x col' row' u) :
    Stopped s (xs ++ ys) x col' row' u :=
  ⟨List.append_assoc xs ys _ ▸ h.trans h'.toReached, h'.polling, h'.rest⟩

/-- A flow that goes on has sent its bytes and reached its position. -/
theorem Sends.reached_on {xs : List BusItem} {col : BitVec 5} {row : BitVec 1} {s u : State}
    {f : Flow} (h : Sends xs col row s f) (hs : s.inited = true) (hf : f = .on u) :
    Reached s (xs.map (fun x => ⟨x.kind, x.byte, true⟩)) col.toNat row u := by
  subst hf
  obtain ⟨hinited, hwrap, hparams, hcol, hrow, hbus⟩ := h.reached hs rfl
  exact ⟨hinited, hwrap, hparams, hcol, hrow, hbus⟩

/-- A transfer that times out, wherever the cursor is put around it (R115). -/
theorem stopped_sent {s : State} (hs : s.inited = true) (ht : s.timesOut = true) (x : BusItem)
    (col : BitVec 5) (row : BitVec 1) :
    Stopped s [] x col.toNat row ((sent x.kind x.byte s).setCursor col row) := by
  have hp : s.modePoll = true := (Bool.and_eq_true_iff.mp ht).1
  refine ⟨⟨(sent_inited ..).trans hs, sent_modeWrap .., sent_params .., rfl, rfl, ?_⟩,
    (congrArg (·.getLsbD 7) (sent_mode ..)).trans hp, ?_⟩
  · simp [ht, BusItem.doubtful]
  · rw [sent, if_pos hp]
    exact ⟨rfl, rfl, fun _ => rfl⟩

/-- `move_to` a position of the display (41_addressing_cursor.md R132). -/
theorem movedTo_stopped {s u : State} {col : Nat} {row : BitVec 1} {err : Status}
    (hs : s.inited = true) (hcol : col < 24) (h : s.movedTo col row = .raised err u) :
    Stopped s [] (addressItem s.params col row) col row u := by
  rw [State.movedTo] at h
  split at h
  · next ht =>
    cases h
    have hstop := stopped_sent hs ht (addressItem s.params col row) (BitVec.ofNat 5 col) row
    rwa [BitVec.toNat_ofNat, Nat.mod_eq_of_lt (by omega)] at hstop
  · cases h

theorem afterRowFull_lt (wrap : Bool) (row : BitVec 1) : (afterRowFull wrap row).1 < 24 := by
  unfold afterRowFull
  split
  · exact Nat.zero_lt_succ 23
  · exact Nat.lt_succ_self 23

section
variable {s u : State} {err : Status} (hn : 1 ≤ s.params.pollLimit) (hs : s.inited = true)
include hn hs

theorem tryTransfer_stopped {kind : Kind} {byte : Byte}
    (h : tryTransfer kind byte s = .raised err u) :
    Stopped s [] ⟨kind, byte, true⟩ s.curCol.toNat s.curRow u := by
  rw [tryTransfer_eq_sent kind byte hn] at h
  split at h
  · next ht =>
    cases h
    have hstop := stopped_sent hs ht ⟨kind, byte, true⟩ s.curCol s.curRow
    rw [← sent_setCursor] at hstop
    exact hstop
  · cases h

theorem moveTo_stopped {col : Byte} {row : Nibble} (hcol : col.toNat < 24)
    (h : moveTo col row s = .raised err u) :
    Stopped s [] (addressItem s.params col.toNat (clampRow row)) col.toNat (clampRow row) u := by
  rw [moveTo_eq_movedTo row hn hcol] at h
  exact movedTo_stopped hs hcol h

theorem moveTo_rowStart_stopped {r : BitVec 1} (h : moveTo 0 (rowOperand r) s = .raised err u) :
    Stopped s [] (addressItem s.params 0 r) 0 r u := by
  have hstop := moveTo_stopped hn hs (by decide) h
  rw [clampRow_rowOperand] at hstop
  exact hstop

theorem moveTo_rowStart_reached {r : BitVec 1} (h : moveTo 0 (rowOperand r) s = .on u) :
    Reached s [addressItem s.params 0 r] 0 r u :=
  (sends_moveTo_rowStart hn rfl r).reached_on hs h

/-- A character before the last column: its byte, and a step (42_display_ops.md R153). -/
theorem write_plain_reached {d : Byte} (hcol : s.curCol.toNat < Config.lastCol)
    (h : (tryTransfer .data d s).andThen advanceAfterWrite = .on u) :
    Reached s [dataItem d] (s.curCol.toNat + 1) s.curRow u :=
  curCol_step hcol ▸ (sends_write_plain hn d hcol).reached_on hs h

/-- A character stops at its own byte or, in the last column, at the address after it
(42_display_ops.md R153; 41_addressing_cursor.md R137). -/
theorem write_stopped {d : Byte} (hcol : s.curCol.toNat ≤ Config.lastCol)
    (h : (tryTransfer .data d s).andThen advanceAfterWrite = .raised err u) :
    Stopped s [] (dataItem d) s.curCol.toNat s.curRow u ∨
    (s.curCol.toNat = Config.lastCol ∧
      Stopped s [dataItem d] (rowFullItem s.params s.modeWrap s.curRow)
        (afterRowFull s.modeWrap s.curRow).1 (afterRowFull s.modeWrap s.curRow).2 u) := by
  rcases andThen_raised h with h | ⟨v, hv, h⟩
  · exact .inl (tryTransfer_stopped hn hs h)
  have hreach := (sends_tryTransfer hn .data d).reached_on hs hv
  rcases Nat.lt_or_eq_of_le hcol with hplain | hfull
  · rw [advanceAfterWrite_plain (hreach.col ▸ hplain)] at h
    cases h
  · rw [advanceAfterWrite_rowFull (hreach.params ▸ hn) (hreach.col.trans hfull)] at h
    have hstop := hreach.stopped (movedTo_stopped hreach.inited (afterRowFull_lt ..) h)
    rw [hreach.params, hreach.wrap, hreach.row] at hstop
    exact .inr ⟨hfull, hstop⟩

end

/-- The spaces that fill a row from a column on, and the address after them, all answered in time. -/
theorem writeSpaces_reached {n : Nat} {s u : State} (hn : 1 ≤ s.params.pollLimit)
    (hs : s.inited = true) (hcol : s.curCol.toNat + n = Config.lastCol)
    (h : writeSpaces (n + 1) s = .on u) :
    Reached s (List.replicate (n + 1) (dataItem 0x20) ++
      [rowFullItem s.params s.modeWrap s.curRow]) (afterRowFull s.modeWrap s.curRow).1
      (afterRowFull s.modeWrap s.curRow).2 u := by
  have hlt := afterRowFull_lt s.modeWrap s.curRow
  have hreach := (sends_writeSpaces hn hcol).reached_on hs h
  rw [List.map_append, List.map_replicate, BitVec.toNat_ofNat,
    Nat.mod_eq_of_lt (by omega)] at hreach
  exact hreach

/-- Where the spaces that fill a row from a column on have stopped: at one of the spaces, each sent
with the cursor at the next column, or at the address after the last one (42_display_ops.md R158). -/
theorem writeSpaces_stopped {n : Nat} {s u : State} {err : Status} (hn : 1 ≤ s.params.pollLimit)
    (hs : s.inited = true) (hcol : s.curCol.toNat + n = Config.lastCol)
    (h : writeSpaces (n + 1) s = .raised err u) :
    (∃ m ≤ n, Stopped s (List.replicate m (dataItem 0x20)) (dataItem 0x20) (s.curCol.toNat + m)
      s.curRow u) ∨
    Stopped s (List.replicate (n + 1) (dataItem 0x20))
      (rowFullItem s.params s.modeWrap s.curRow) (afterRowFull s.modeWrap s.curRow).1
      (afterRowFull s.modeWrap s.curRow).2 u := by
  induction n generalizing s with
  | zero =>
    rcases andThen_raised h with h | ⟨v, -, h⟩
    · exact (write_stopped hn hs hcol.le h).imp (fun hstop => ⟨0, le_rfl, hstop⟩) And.right
    · cases h
  | succ n ih =>
    have hplain : s.curCol.toNat < Config.lastCol := by omega
    rcases andThen_raised h with h | ⟨v, hv, h⟩
    · rcases write_stopped hn hs hplain.le h with hstop | ⟨hfull, -⟩
      · exact .inl ⟨0, Nat.zero_le _, hstop⟩
      · exact absurd hfull hplain.ne
    · have hreach := write_plain_reached hn hs hplain hv
      have hcol' : v.curCol.toNat + n = Config.lastCol := by
        rw [hreach.col]
        omega
      rcases ih (hreach.params ▸ hn) hreach.inited hcol' h with ⟨m, hm, hstop⟩ | hstop
      · have hstop' := hreach.stopped hstop
        rw [hreach.col, hreach.row, Nat.add_assoc, Nat.add_comm 1] at hstop'
        exact .inl ⟨m + 1, Nat.succ_le_succ hm, hstop'⟩
      · have hstop' := hreach.stopped hstop
        rw [hreach.params, hreach.wrap, hreach.row] at hstop'
        exact .inr hstop'

/-- Where the transfers of `CLEAR_ROW` have stopped: at the first address, at a space, at the address
after the last space, or at the last address (42_display_ops.md R158). -/
theorem clearRow_stopped {r : BitVec 1} {s u : State} {err : Status}
    (hn : 1 ≤ s.params.pollLimit) (hs : s.inited = true)
    (h : ((moveTo 0 (rowOperand r) s).andThen (writeSpaces Config.cols)).andThen
      (moveTo 0 (rowOperand r)) = .raised err u) :
    Stopped s [] (addressItem s.params 0 r) 0 r u ∨
    (∃ n < 24, Stopped s (addressItem s.params 0 r :: List.replicate n (dataItem 0x20))
      (dataItem 0x20) n r u) ∨
    Stopped s (addressItem s.params 0 r :: List.replicate 24 (dataItem 0x20))
      (rowFullItem s.params s.modeWrap r) (afterRowFull s.modeWrap r).1
      (afterRowFull s.modeWrap r).2 u ∨
    Stopped s (addressItem s.params 0 r :: List.replicate 24 (dataItem 0x20) ++
      [rowFullItem s.params s.modeWrap r]) (addressItem s.params 0 r) 0 r u := by
  rcases andThen_raised h with h | ⟨w, hw, h⟩
  · rcases andThen_raised h with h | ⟨v, hv, h⟩
    · exact .inl (moveTo_rowStart_stopped hn hs h)
    · have hreach := moveTo_rowStart_reached hn hs hv
      have hcol : v.curCol.toNat + 23 = Config.lastCol := by rw [hreach.col]; rfl
      rcases writeSpaces_stopped (hreach.params ▸ hn) hreach.inited hcol h with
        ⟨n, hle, hstop⟩ | hstop
      · have hstop' := hreach.stopped hstop
        rw [hreach.col, hreach.row, Nat.zero_add] at hstop'
        exact .inr (.inl ⟨n, Nat.lt_succ_of_le hle, hstop'⟩)
      · have hstop' := hreach.stopped hstop
        rw [hreach.params, hreach.wrap, hreach.row] at hstop'
        exact .inr (.inr (.inl hstop'))
  · obtain ⟨v, hv, hw⟩ := andThen_on hw
    have hreach := moveTo_rowStart_reached hn hs hv
    have hcol : v.curCol.toNat + 23 = Config.lastCol := by rw [hreach.col]; rfl
    have hfilled := hreach.trans (writeSpaces_reached (hreach.params ▸ hn) hreach.inited hcol hw)
    rw [hreach.params, hreach.wrap, hreach.row] at hfilled
    have hstop := hfilled.stopped
      (moveTo_rowStart_stopped (hfilled.params ▸ hn) hfilled.inited h)
    rw [hfilled.params, List.append_nil] at hstop
    exact .inr (.inr (.inr hstop))

/-! ## The operations (R190) -/

/-- An operation that times out has raised it in its body, and then only writes the reply. -/
theorem Flow.raised_of_timeout {f : Flow} {t : State} (he : (.next f.finish : Result) = .next t)
    (hst : t.status = .hardwareTimeout) :
    ∃ u, f = .raised .hardwareTimeout u ∧ t = raise .hardwareTimeout u := by
  obtain ⟨u, hu⟩ := Flow.raised_of_finish he (by simp [hst])
  exact ⟨u, hst ▸ hu⟩

/-- What R190 says of every operation: Ready before and after, a polling mode that is kept, and pins
at rest. -/
theorem Stopped.effects {s u : State} {xs : List BusItem} {x : BusItem} {col : Nat}
    {row : BitVec 1} {P : Prop} (h : Stopped s xs x col row u) (hs : s.inited = true)
    (hmode : u.mode = s.mode) (hP : P) :
    s.inited = true ∧ u.inited = true ∧ s.modePoll = true ∧ u.mode = s.mode ∧ u.PinsAtRest ∧ P :=
  ⟨hs, h.inited, (congrArg (·.getLsbD 7) hmode).symm.trans h.polling, hmode, h.rest, hP⟩

/-- Settles O29: each operation stops at one of its transfers. -/
theorem timeoutKeepsEarlierEffects : Obligations.TimeoutKeepsEarlierEffects := by
  intro i s t hn hrange hi he hst
  obtain ⟨hs, hon⟩ := ready_of_timeout hi he hst
  have hninit : ∀ m, i ≠ .init m := by
    rintro m rfl
    cases he
    cases hst
  have hmode := (exec_framed hi hninit he).mode
  have hpwr := fun ht => exec_pwrOn hi hninit ht he
  cases i with
  | init m => exact absurd rfl (hninit m)
  | wrch d =>
    rw [exec_wrch_ready d hs] at he
    obtain ⟨u, hu, rfl⟩ := Flow.raised_of_timeout he hst
    rcases write_stopped hn hs (hrange hs) hu with hstop | ⟨hcol, hstop⟩
    · exact hstop.effects hs hmode
        ⟨hpwr nofun, .inl ⟨hstop.bus, BitVec.eq_of_toNat_eq hstop.col, hstop.row⟩⟩
    · exact hstop.effects hs hmode ⟨hpwr nofun, .inr ⟨hcol, hstop.bus, hstop.col, hstop.row⟩⟩
  | moveTo col row =>
    rw [exec_moveTo_ready col row hs] at he
    obtain ⟨u, hu, rfl⟩ := Flow.raised_of_timeout he hst
    have hstop := moveTo_stopped hn hs (hon col row rfl) hu
    exact hstop.effects hs hmode ⟨hstop.col, hstop.row, hpwr nofun, hstop.bus⟩
  | homeTop =>
    rw [exec_homeTop, exec_moveTo_ready 0 0 hs] at he
    obtain ⟨u, hu, rfl⟩ := Flow.raised_of_timeout he hst
    have hstop := moveTo_rowStart_stopped (r := 0) hn hs hu
    exact hstop.effects hs hmode
      ⟨BitVec.eq_of_toNat_eq hstop.col, hstop.row, hpwr nofun, hstop.bus⟩
  | homeBot =>
    rw [exec_homeBot, exec_moveTo_ready 0 1 hs] at he
    obtain ⟨u, hu, rfl⟩ := Flow.raised_of_timeout he hst
    have hstop := moveTo_rowStart_stopped (r := 1) hn hs hu
    exact hstop.effects hs hmode
      ⟨BitVec.eq_of_toNat_eq hstop.col, hstop.row, hpwr nofun, hstop.bus⟩
  | clearAll =>
    rw [exec_clearAll_ready hs] at he
    obtain ⟨u, hu, rfl⟩ := Flow.raised_of_timeout he hst
    rcases andThen_raised hu with hu | ⟨v, -, hu⟩
    · have hstop := tryTransfer_stopped hn hs hu
      exact hstop.effects hs hmode
        ⟨hstop.bus, BitVec.eq_of_toNat_eq hstop.col, hstop.row, hpwr nofun⟩
    · cases hu
  | clearRow row =>
    rw [exec_clearRow_ready row hs] at he
    obtain ⟨u, hu, rfl⟩ := Flow.raised_of_timeout he hst
    rcases clearRow_stopped hn hs hu with hstop | ⟨n, hlt, hstop⟩ | hstop | hstop
    · exact hstop.effects hs hmode
        ⟨hpwr nofun, .inl ⟨hstop.bus, BitVec.eq_of_toNat_eq hstop.col, hstop.row⟩⟩
    · exact hstop.effects hs hmode ⟨hpwr nofun, .inr (.inl ⟨n, hlt,
        hstop.bus.trans (List.append_assoc ..).symm, hstop.col, hstop.row⟩)⟩
    · exact hstop.effects hs hmode ⟨hpwr nofun, .inr (.inr (.inl
        ⟨hstop.bus.trans (List.append_assoc ..).symm, hstop.col, hstop.row⟩))⟩
    · exact hstop.effects hs hmode ⟨hpwr nofun, .inr (.inr (.inr
        ⟨hstop.bus.trans (by simp only [List.append_assoc]; rfl),
          BitVec.eq_of_toNat_eq hstop.col, hstop.row⟩))⟩
  | togglePower =>
    rw [exec_togglePower_ready hs] at he
    obtain ⟨u, hu, rfl⟩ := Flow.raised_of_timeout he hst
    have hstop := tryTransfer_stopped (s := { s with pwrOn := !s.pwrOn }) hn hs hu
    obtain ⟨-, hu'⟩ := tryTransfer_raised hu
    have hflip : u.pwrOn = !s.pwrOn := by rw [hu', transfer_pwrOn]
    exact hstop.effects hs hmode
      ⟨hflip, BitVec.eq_of_toNat_eq hstop.col, hstop.row, hstop.bus⟩
  | remain =>
    rw [exec_remain_ready hs] at he
    cases he
    cases hst
  | xfer kind byte =>
    rw [exec_xfer_ready kind byte hs] at he
    obtain ⟨u, hu, rfl⟩ := Flow.raised_of_timeout he hst
    have hstop := tryTransfer_stopped hn hs hu
    exact hstop.effects hs hmode
      ⟨hstop.bus, BitVec.eq_of_toNat_eq hstop.col, hstop.row, hpwr nofun⟩
  | _ => cases hi

end Sys2Proof.Machine
end

section
/-! SUPPORT. Agreement of block and device (70_reset_and_hazards.md R213): what the block believes
of the device, kept by each part of an operation that goes on, and so by every operation that does
not time out. -/

namespace Sys2Proof.Machine

/-! ## What the block believes -/

/-- What the block believes of a device apart from its address counter (R213). -/
structure State.Believes (s : State) (d : Device) : Prop where
  inited : s.inited = true
  inc : s.modeInc = true
  dir : d.dir = .inc
  dispD : d.dispD = s.pwrOn
  dispC : d.dispC = s.modeCursor
  dispB : d.dispB = s.modeBlink

/-- Agreement is a cursor on the display, the beliefs, and the counter at the cursor (R213). -/
theorem synced_iff {s : State} :
    s.Synced ↔ s.Believes s.drained.device ∧ s.curCol.toNat ≤ Config.lastCol ∧
      s.drained.device.ac = s.cursorAddress := by
  constructor
  · rintro ⟨hs, hinc, hcol, hac, hdir, hD, hC, hB⟩
    exact ⟨⟨hs, hinc, hdir, hD, hC, hB⟩, hcol hs, hac⟩
  · rintro ⟨⟨hs, hinc, hdir, hD, hC, hB⟩, hcol, hac⟩
    exact ⟨hs, hinc, fun _ => hcol, hac, hdir, hD, hC, hB⟩

theorem State.Synced.believes {s : State} (h : s.Synced) : s.Believes s.drained.device :=
  (synced_iff.mp h).1

/-- What is believed of a device is believed of any other with the same direction and display
bits. -/
theorem State.Believes.congr {s : State} {d d' : Device} (h : s.Believes d)
    (hdir : d'.dir = d.dir) (hD : d'.dispD = d.dispD) (hC : d'.dispC = d.dispC)
    (hB : d'.dispB = d.dispB) : s.Believes d' :=
  ⟨h.inited, h.inc, hdir.trans h.dir, hD.trans h.dispD, hC.trans h.dispC, hB.trans h.dispB⟩

theorem State.Believes.setAddress {s : State} {d : Device} (h : s.Believes d) (a : Address) :
    s.Believes (d.setAddress a) := h.congr rfl rfl rfl rfl

theorem State.Believes.storeData {s : State} {d : Device} (h : s.Believes d) (v : Byte) :
    s.Believes (d.storeData v) := h.congr rfl rfl rfl rfl

/-- Clear makes the device step up, as the block believes it does anyway (20_memory.md R59). -/
theorem State.Believes.clear {s : State} {d : Device} (h : s.Believes d) : s.Believes d.clear :=
  h.congr h.dir.symm rfl rfl rfl

/-- The cursor is no part of the beliefs. -/
theorem State.Believes.setCursor {s : State} {d : Device} (h : s.Believes d) (col : BitVec 5)
    (row : BitVec 1) : (s.setCursor col row).Believes d :=
  ⟨h.inited, h.inc, h.dir, h.dispD, h.dispC, h.dispB⟩

theorem drained_device_setCursor (s : State) (col : BitVec 5) (row : BitVec 1) :
    (s.setCursor col row).drained.device = s.drained.device := by
  rw [drained_device, drained_device, State.setCursor_device, State.setCursor_bus]

/-! ## The address of the cursor -/

/-- A step before the last column moves the address by one, modulo 128 as the counter. -/
theorem cursorAddress_step {s : State} (h : s.curCol.toNat < Config.lastCol) :
    (s.setCursor (s.curCol + 1) s.curRow).cursorAddress = s.cursorAddress + 1 := by
  have hcol : (colOperand (s.curCol + 1)).setWidth 7 = (colOperand s.curCol).setWidth 7 + 1 := by
    apply BitVec.eq_of_toNat_eq
    have hone : (1 : BitVec 7).toNat = 1 := rfl
    simp only [Config.lastCol, Config.cols] at h
    simp only [colOperand, BitVec.toNat_setWidth, BitVec.toNat_add, curCol_step h, hone]
    omega
  simp only [State.cursorAddress, resolve, State.setCursor_curCol, State.setCursor_curRow,
    State.setCursor_params, hcol, BitVec.add_assoc]

/-- The cursor at (0,0) is at address 0 where row 0 starts there. -/
theorem cursorAddress_origin {s : State} (h : s.params.rowBase0 = 0) (hcol : s.curCol = 0)
    (hrow : s.curRow = 0) : s.cursorAddress = 0 := by
  rw [State.cursorAddress, hcol, hrow, resolve, clampRow_rowOperand, rowBase, if_pos rfl, h]
  rfl

/-- The address that `move_to` sends is that of the cursor it has set (41_addressing_cursor.md
R132). -/
theorem cursorAddress_setCursor_operands {col : Byte} (row : BitVec 1) (s : State)
    (hcol : col.toNat < Config.cols) :
    (s.setCursor (col.setWidth 5) row).cursorAddress =
      resolve s.params col (rowOperand row) := by
  have hback : colOperand (col.setWidth 5) = col := by
    apply BitVec.eq_of_toNat_eq
    simp only [Config.cols] at hcol
    simp only [colOperand, BitVec.toNat_setWidth]
    omega
  rw [State.cursorAddress, State.setCursor_curCol, State.setCursor_curRow,
    State.setCursor_params, hback]

/-! ## Parts of an operation that go on -/

section
variable {kind : Kind} {byte : Byte} {s u : State}

/-- The byte of a transfer that goes on is the last that reaches the device, and is sure to be
taken (40_transport.md R115). -/
theorem tryTransfer_on_drained (h : tryTransfer kind byte s = .on u) :
    u.drained.device = s.drained.device.after ⟨kind, byte, true⟩ := by
  have hbus := tryTransfer_finish_bus kind byte s
  rw [h] at hbus
  have hdevice : u.device = s.device := by rw [tryTransfer_on h, transfer_device]
  exact drained_device_of_bus hbus hdevice

/-- A transfer leaves the registers of the block alone, so the beliefs afterwards are those of
before. -/
theorem tryTransfer_on_believes (h : tryTransfer kind byte s = .on u)
    (hb : s.Believes (s.drained.device.after ⟨kind, byte, true⟩)) :
    u.Believes u.drained.device := by
  rw [tryTransfer_on_drained h]
  obtain rfl := tryTransfer_on h
  obtain ⟨hs, hinc, hdir, hD, hC, hB⟩ := hb
  refine ⟨(transfer_inited ..).trans hs, ?_, hdir, hD.trans (transfer_pwrOn ..).symm, ?_, ?_⟩
  · rwa [State.modeInc, transfer_mode]
  · rwa [State.modeCursor, transfer_mode]
  · rwa [State.modeBlink, transfer_mode]

theorem tryTransfer_on_cursorAddress (h : tryTransfer kind byte s = .on u) :
    u.cursorAddress = s.cursorAddress := by
  obtain rfl := tryTransfer_on h
  simp only [State.cursorAddress, transfer_params, transfer_curCol, transfer_curRow]

/-- A transfer that goes on and gives the device what the block believes of it, with the counter at
the cursor. -/
theorem tryTransfer_on_synced (h : tryTransfer kind byte s = .on u)
    (hb : s.Believes (s.drained.device.after ⟨kind, byte, true⟩))
    (hcol : s.curCol.toNat ≤ Config.lastCol)
    (hac : (s.drained.device.after ⟨kind, byte, true⟩).ac = s.cursorAddress) : u.Synced := by
  refine synced_iff.mpr ⟨tryTransfer_on_believes h hb, ?_, ?_⟩
  · rwa [tryTransfer_on h, transfer_curCol]
  · rw [tryTransfer_on_drained h, tryTransfer_on_cursorAddress h, hac]

end

/-- `move_to` that goes on is a transfer of the address of a cursor set on the display
(41_addressing_cursor.md R132). -/
theorem moveTo_on {col : Byte} {row : Nibble} {s u : State} (h : moveTo col row s = .on u) :
    ∃ c r, c.toNat ≤ Config.lastCol ∧
      tryTransfer .command (cmdSetDdramByte (s.setCursor c r).cursorAddress) (s.setCursor c r) =
        .on u := by
  unfold moveTo at h
  split at h
  · cases h
  · next hcol =>
    have hcol : col.toNat < Config.cols := Nat.lt_of_not_le hcol
    refine ⟨col.setWidth 5, clampRow row, ?_, ?_⟩
    · simp only [Config.lastCol, Config.cols, BitVec.toNat_setWidth] at hcol ⊢
      omega
    · rw [cursorAddress_setCursor_operands _ s hcol]
      exact h

/-- After `move_to` the device differs in its counter alone, which is at the cursor. -/
theorem moveTo_on_drained {col : Byte} {row : Nibble} {s u : State}
    (h : moveTo col row s = .on u) :
    u.drained.device = s.drained.device.setAddress u.cursorAddress := by
  obtain ⟨c, r, -, h⟩ := moveTo_on h
  rw [tryTransfer_on_drained h, tryTransfer_on_cursorAddress h, drained_device_setCursor]
  exact Device.after_setDdram ..

/-- `move_to` brings the counter to the cursor, wherever it was. -/
theorem moveTo_on_synced {col : Byte} {row : Nibble} {s u : State}
    (hb : s.Believes s.drained.device) (h : moveTo col row s = .on u) : u.Synced := by
  obtain ⟨c, r, hcol, h⟩ := moveTo_on h
  have hdevice : (s.setCursor c r).drained.device.after
      ⟨.command, cmdSetDdramByte (s.setCursor c r).cursorAddress, true⟩ =
        s.drained.device.setAddress (s.setCursor c r).cursorAddress := by
    rw [drained_device_setCursor]
    exact Device.after_setDdram ..
  refine tryTransfer_on_synced h ?_ hcol ?_
  · rw [hdevice]
    exact (hb.setAddress _).setCursor c r
  · rw [hdevice]
    rfl

/-- The cursor after a write steps, or `move_to` sets it (41_addressing_cursor.md R136). -/
theorem advanceAfterWrite_on {s u : State} (h : advanceAfterWrite s = .on u) :
    (s.curCol.toNat < Config.lastCol ∧ u = s.setCursor (s.curCol + 1) s.curRow) ∨
    (Config.lastCol ≤ s.curCol.toNat ∧ ∃ col row, moveTo col row s = .on u) := by
  unfold advanceAfterWrite at h
  split at h
  · next hcol =>
    cases h
    exact .inl ⟨hcol, rfl⟩
  · next hcol =>
    refine .inr ⟨Nat.le_of_not_lt hcol, ?_⟩
    split at h
    · exact ⟨_, _, h⟩
    · exact ⟨_, _, h⟩

/-- A character written in agreement: counter and cursor step together, or the cursor's address is
sent after it (R136, R153). -/
theorem write_on_synced {d : Byte} {s u : State} (hsync : s.Synced)
    (h : (tryTransfer .data d s).andThen advanceAfterWrite = .on u) : u.Synced := by
  obtain ⟨hb, hcol, hac⟩ := synced_iff.mp hsync
  obtain ⟨v, hv, h⟩ := andThen_on h
  have hdevice : v.drained.device = s.drained.device.storeData d := tryTransfer_on_drained hv
  have hvb := tryTransfer_on_believes hv (hb.storeData d)
  rcases advanceAfterWrite_on h with ⟨hlt, rfl⟩ | ⟨-, col, row, h⟩
  · refine synced_iff.mpr ⟨?_, ?_, ?_⟩
    · rw [drained_device_setCursor]
      exact hvb.setCursor _ _
    · rw [State.setCursor_curCol, curCol_step hlt]
      exact hlt
    · rw [drained_device_setCursor, hdevice, cursorAddress_step hlt,
        tryTransfer_on_cursorAddress hv, Device.storeData_ac_inc d hb.dir, hac]
  · exact moveTo_on_synced hvb h

theorem writeSpaces_on_synced {n : Nat} {s u : State} (hsync : s.Synced)
    (h : writeSpaces n s = .on u) : u.Synced := by
  induction n generalizing s with
  | zero =>
    cases h
    exact hsync
  | succ n ih =>
    obtain ⟨v, hv, h⟩ := andThen_on h
    exact ih (write_on_synced hsync hv) h

theorem clearRow_on_synced {r : BitVec 1} {s u : State} (hsync : s.Synced)
    (h : ((moveTo 0 (rowOperand r) s).andThen (writeSpaces Config.cols)).andThen
      (moveTo 0 (rowOperand r)) = .on u) : u.Synced := by
  obtain ⟨w, hw, h⟩ := andThen_on h
  obtain ⟨v, hv, hw⟩ := andThen_on hw
  have hvs := moveTo_on_synced hsync.believes hv
  exact moveTo_on_synced (writeSpaces_on_synced hvs hw).believes h

/-- The device at address 0 and the cursor at (0,0), which is there (42_display_ops.md R157). -/
theorem clearAll_on_synced {s u : State} (hbase : s.params.rowBase0 = 0) (hsync : s.Synced)
    (h : (tryTransfer .command cmdClearByte s).andThen (fun t => .on (t.setCursor 0 0)) = .on u) :
    u.Synced := by
  obtain ⟨v, hv, h⟩ := andThen_on h
  cases h
  have hparams : v.params = s.params := by rw [tryTransfer_on hv, transfer_params]
  refine synced_iff.mpr ⟨?_, Nat.zero_le _, ?_⟩
  · rw [drained_device_setCursor]
    exact (tryTransfer_on_believes hv hsync.believes.clear).setCursor 0 0
  · rw [drained_device_setCursor, tryTransfer_on_drained hv,
      cursorAddress_origin (by rw [State.setCursor_params, hparams, hbase]) rfl rfl]
    rfl

/-- The flag flipped first is the display bit that the device then takes (42_display_ops.md
R160). -/
theorem togglePower_on_synced {s u : State} (hsync : s.Synced) (h : togglePower s = .on u) :
    u.Synced := by
  obtain ⟨hb, hcol, hac⟩ := synced_iff.mp hsync
  have hdevice : ({ s with pwrOn := !s.pwrOn } : State).drained.device.after
      ⟨.command, cmdDisplayByte (!s.pwrOn) s.modeCursor s.modeBlink, true⟩ =
        s.drained.device.displayControl (!s.pwrOn) s.modeCursor s.modeBlink := by
    rw [drained_device, drained_device]
    exact Device.after_display ..
  refine tryTransfer_on_synced h ?_ hcol ?_
  · exact hdevice ▸ ⟨hb.inited, hb.inc, hb.dir, rfl, rfl, rfl⟩
  · exact hdevice ▸ hac

/-! ## The end of an operation -/

/-- The reply is no part of the agreement. -/
theorem State.Synced.reply {s : State} (h : s.Synced) (st : Status) (v : Byte) :
    State.Synced { s with status := st, result := v } := by
  simp only [State.Synced, drained_device] at h ⊢
  exact h

/-- An operation that has ended with status 0 went on to its last line, when all it can report is a
timeout. -/
theorem Flow.on_of_ok {f : Flow} {t : State} (he : (.next f.finish : Result) = .next t)
    (honly : ∀ err u, f = .raised err u → err = .hardwareTimeout) (hok : t.status = .ok) :
    ∃ u, f = .on u ∧ t = { u with status := .ok, result := 0 } := by
  cases he
  cases f with
  | on u => exact ⟨u, rfl, rfl⟩
  | raised err u => cases hok.symm.trans (honly err u rfl)

/-- An operation whose parts keep the agreement, and that raises an error other than a timeout
before it has done anything, keeps the agreement unless it times out. -/
theorem Flow.finish_synced {f : Flow} {s t : State} (hsync : s.Synced)
    (hst : t.status ≠ .hardwareTimeout) (he : (.next f.finish : Result) = .next t)
    (hon : ∀ u, f = .on u → u.Synced)
    (hraised : ∀ err u, f = .raised err u → err = .hardwareTimeout ∨ u = s) : t.Synced := by
  cases he
  cases f with
  | on u => exact (hon u rfl).reply .ok 0
  | raised err u =>
    rcases hraised err u rfl with rfl | rfl
    · exact absurd rfl hst
    · exact hsync.reply err 0

/-! ## The operations -/

/-- What the device has become of the power-on sequence (20_memory.md R59 to R61; 42_display_ops.md
R150). -/
theorem initSequence_drained (s : State) :
    (initSequence s).drained.device =
      (s.drained.device.displayControl true s.modeCursor s.modeBlink).clear.entryMode
        s.modeInc := by
  have hbus : (initSequence s).bus = s.bus ++
      [cmdItem (cmdFunctionByte s.modeBus8 s.modeTwoLine s.modeFont11),
        cmdItem (cmdDisplayByte true s.modeCursor s.modeBlink), cmdItem cmdClearByte,
        cmdItem (cmdEntryByte s.modeInc)] := by
    rw [initSequence_eq]
    simp only [sentFixed, List.append_assoc]
    rfl
  rw [drained_device, drained_device, hbus, (initSequence_framed s).device,
    Device.afterAll_append]
  simp only [Device.afterAll_cons, Device.afterAll_nil, Device.after_function,
    Device.after_display, Device.after_clear, Device.after_entry]

/-- The device after `INIT`, with the bits of the mode that `INIT` has loaded. -/
theorem exec_init_drained {mode : Byte} {s t : State} (he : exec (.init mode) s = .next t) :
    t.drained.device =
      (s.drained.device.displayControl true t.modeCursor t.modeBlink).clear.entryMode
        t.modeInc := by
  have hmode := (initSequence_framed { s with mode := mode }).mode
  have hdevice := initSequence_drained { s with mode := mode }
  rw [State.modeCursor, State.modeBlink, State.modeInc, ← hmode] at hdevice
  rw [drained_device, drained_device] at hdevice ⊢
  cases he
  exact hdevice

/-- Settles O47: the sequence sends the display bits, a clear and the direction, and leaves counter
and cursor at 0. -/
theorem initBringsAgreement : Obligations.InitBringsAgreement := by
  intro mode s t hbase hinc he
  obtain ⟨-, hparams, -⟩ := exec_host_frame rfl he
  obtain ⟨-, -, hinit, -⟩ := flagsAndModeHaveTheirWriters _ s t he
  obtain ⟨hmode, hs, hpwr⟩ := hinit mode rfl
  have hcursor : t.curCol = 0 ∧ t.curRow = 0 := by
    cases he
    exact ⟨rfl, rfl⟩
  have hinc' : t.modeInc = true := by rwa [State.modeInc, hmode]
  have hdevice := exec_init_drained he
  rw [hinc'] at hdevice
  refine synced_iff.mpr ⟨?_, hcursor.1 ▸ Nat.zero_le _, ?_⟩
  · rw [hdevice]
    exact ⟨hs, hinc', rfl, hpwr.symm, rfl, rfl⟩
  · rw [hdevice, cursorAddress_origin (hparams ▸ hbase) hcursor.1 hcursor.2]
    rfl

/-- Every named operation of a block in agreement keeps it, unless it times out or leaves the
increment direction (R213). -/
theorem exec_synced {i : Instr} {s t : State} (hbase : s.params.rowBase0 = 0) (hsync : s.Synced)
    (hi : i.isHostOp = true) (hx : ∀ kind byte, i ≠ .xfer kind byte)
    (hinc : ∀ mode, i = .init mode → mode.getLsbD 5 = true) (he : exec i s = .next t)
    (hst : t.status ≠ .hardwareTimeout) : t.Synced := by
  have hb := hsync.believes
  have hs := hb.inited
  have moved : ∀ col row, exec (.moveTo col row) s = .next t → t.Synced := by
    intro col row he
    rw [exec_moveTo_ready col row hs] at he
    exact Flow.finish_synced hsync hst he (fun _ h => moveTo_on_synced hb h)
      (fun _ _ h => (moveTo_raised h).imp_right fun ⟨_, hsame, _⟩ => hsame)
  cases i with
  | init mode => exact initBringsAgreement mode s t hbase (hinc mode rfl) he
  | wrch d =>
    rw [exec_wrch_ready d hs] at he
    exact Flow.finish_synced hsync hst he (fun _ h => write_on_synced hsync h)
      (fun _ _ h => .inl (write_raised h))
  | moveTo col row => exact moved col row he
  | homeTop => exact moved 0 0 he
  | homeBot => exact moved 0 1 he
  | clearAll =>
    rw [exec_clearAll_ready hs] at he
    refine Flow.finish_synced hsync hst he (fun _ h => clearAll_on_synced hbase hsync h)
      fun err u h => .inl ?_
    rcases andThen_raised h with h | ⟨v, -, h⟩
    · exact (tryTransfer_raised h).1
    · cases h
  | clearRow row =>
    rw [exec_clearRow_ready row hs] at he
    exact Flow.finish_synced hsync hst he (fun _ h => clearRow_on_synced hsync h)
      (fun _ _ h => .inl (clearRow_raised h))
  | togglePower =>
    rw [exec_togglePower_ready hs] at he
    exact Flow.finish_synced hsync hst he (fun _ h => togglePower_on_synced hsync h)
      (fun _ _ h => .inl (tryTransfer_raised h).1)
  | remain =>
    rw [exec_remain_ready hs] at he
    cases he
    exact hsync.reply .ok (remainingCapacity s)
  | xfer kind byte => exact absurd rfl (hx kind byte)
  | _ => cases hi

/-- A byte that reaches the device was on its way before, so the drained device is the same. -/
theorem step_device_synced {s t : State} (hsync : s.Synced) (hbus : s.bus ≠ [])
    (he : step s = .next t) : t.Synced := by
  obtain ⟨x, rest, hxs⟩ := List.exists_cons_of_ne_nil hbus
  rw [step_device hxs, acceptItem_eq] at he
  cases he
  simp only [State.Synced, drained_device, hxs] at hsync ⊢
  exact hsync

/-- Settles O48: the operations part by part, and the device, which takes what was already on its
way. -/
theorem agreementIsKept : Obligations.AgreementIsKept :=
  ⟨fun _ _ _ hbase hsync hi hx hinc he hst => exec_synced hbase hsync hi hx hinc he hst,
    fun _ _ hsync hbus he => step_device_synced hsync hbus he⟩

/-! ## Runs of operations -/

/-- A run is its first operation, which did not time out, and the rest. -/
theorem runOps_cons {i : Instr} {is : List Instr} {s t : State}
    (h : runOps (i :: is) s = some t) :
    ∃ u, exec i s = .next u ∧ u.status ≠ .hardwareTimeout ∧ runOps is u = some t := by
  obtain ⟨u, hu⟩ := everyInstructionEnds i s
  simp only [runOps, hu] at h
  split at h
  · cases h
  · next hst => exact ⟨u, hu, hst, h⟩

theorem runOps_synced {ops : List Instr} {s t : State} (hbase : s.params.rowBase0 = 0)
    (hsync : s.Synced)
    (hops : ∀ i ∈ ops, i.isHostOp = true ∧ (∀ kind byte, i ≠ .xfer kind byte) ∧
      ∀ m, i = .init m → m.getLsbD 5 = true)
    (h : runOps ops s = some t) : t.Synced := by
  induction ops generalizing s with
  | nil =>
    cases h
    exact hsync
  | cons i is ih =>
    obtain ⟨u, hu, hst, hrest⟩ := runOps_cons h
    obtain ⟨⟨hi, hx, hinc⟩, his⟩ := List.forall_mem_cons.mp hops
    obtain ⟨-, hparams, -⟩ := exec_host_frame hi hu
    exact ih (hparams ▸ hbase) (exec_synced hbase hsync hi hx hinc hu hst) his hrest

/-- Settles O49: `INIT` brings the agreement and every operation after it keeps it. -/
theorem runsAfterInitAgree : Obligations.RunsAfterInitAgree := by
  intro mode ops s t hbase hinc hops h
  obtain ⟨u, hu, -, hrest⟩ := runOps_cons h
  obtain ⟨-, hparams, -⟩ := exec_host_frame rfl hu
  exact runOps_synced (hparams ▸ hbase) (initBringsAgreement mode s u hbase hinc hu) hops hrest

end Sys2Proof.Machine
end

section
/-! SUPPORT. The line bit of the mode outside `INIT` (70_reset_and_hazards.md R218): a change that
no part of an operation sees. -/

namespace Sys2Proof.Machine

/-- The state with `MODE.TWO_LINE` inverted (30_encoding.md R74). -/
def State.flipTwoLine (s : State) : State := { s with mode := s.mode ^^^ 0x02 }

/-- Every other bit of the mode is as before. -/
theorem flipTwoLine_getLsbD (s : State) {n : Nat} (hn : (0x02 : Byte).getLsbD n = false) :
    s.flipTwoLine.mode.getLsbD n = s.mode.getLsbD n := by
  rw [State.flipTwoLine, BitVec.getLsbD_xor, hn, Bool.xor_false]

theorem flipTwoLine_modeBus8 (s : State) : s.flipTwoLine.modeBus8 = s.modeBus8 :=
  flipTwoLine_getLsbD s rfl

theorem busyRead_flipTwoLine (s : State) :
    s.flipTwoLine.busyRead = (s.busyRead.1, s.busyRead.2.flipTwoLine) := by
  have hread : ∀ busy, afterRead busy s.flipTwoLine = (afterRead busy s).flipTwoLine := by
    intro busy
    rw [afterRead, flipTwoLine_modeBus8]
    rfl
  cases h : s.answers with
  | nil => rw [busyRead_free h, busyRead_free (s := s.flipTwoLine) h, hread]; rfl
  | cons b rest => rw [busyRead_listed h, busyRead_listed (s := s.flipTwoLine) h, hread]; rfl

theorem unseen_flipTwoLine : Unseen State.flipTwoLine where
  inited _ := rfl
  pwrOn _ := rfl
  curCol _ := rfl
  curRow _ := rfl
  params _ := rfl
  modeCursor s := flipTwoLine_getLsbD s rfl
  modeBlink s := flipTwoLine_getLsbD s rfl
  modeWrap s := flipTwoLine_getLsbD s rfl
  modePoll s := flipTwoLine_getLsbD s rfl
  strobe k b s := by rw [strobe_eq, strobe_eq, flipTwoLine_modeBus8]; rfl
  busyRead := busyRead_flipTwoLine
  delay _ _ := rfl
  toBus _ _ _ _ := rfl
  setPwrOn _ _ := rfl
  setCursor _ _ _ := rfl
  reply _ _ _ := rfl

/-- Settles O46: the inverted bit is a change that no operation but `INIT` sees, and none writes the
mode. -/
theorem twoLineBitHasNoOtherEffect : Obligations.TwoLineBitHasNoOtherEffect := by
  intro i s t hi hn he
  have ht : { t with mode := s.mode ^^^ 0x02 } = t.flipTwoLine := by
    rw [State.flipTwoLine, (exec_framed hi hn he).mode]
  rw [ht]
  exact (unseen_flipTwoLine.exec hi hn).trans (congrArg (mapNext State.flipTwoLine) he)

end Sys2Proof.Machine
end

section
/-! SUPPORT. Where a byte lands and how cursor and counter part (70_reset_and_hazards.md R211 to
R213): a write and a raw address at the device. -/

namespace Sys2Proof.Machine

/-- A successful `WRCH` has stored its byte, and then stepped the cursor or sent its address
(42_display_ops.md R153). -/
theorem exec_wrch_ok {d : Byte} {s t : State} (hs : s.inited = true)
    (he : exec (.wrch d) s = .next t) (hok : t.status = .ok) :
    ∃ v u, tryTransfer .data d s = .on v ∧ advanceAfterWrite v = .on u ∧
      t = { u with status := .ok, result := 0 } := by
  rw [exec_wrch_ready d hs] at he
  obtain ⟨u, hu, ht⟩ := Flow.on_of_ok he (fun _ _ => write_raised) hok
  obtain ⟨v, hv, hadv⟩ := andThen_on hu
  exact ⟨v, u, hv, hadv, ht⟩

/-- The reply is nothing to the device. -/
theorem drained_device_reply (s : State) (st : Status) (v : Byte) :
    ({ s with status := st, result := v } : State).drained.device = s.drained.device := by
  rw [drained_device, drained_device]

/-- The step of the cursor stores nothing at the device. -/
theorem advanceAfterWrite_on_ddram {s u : State} (h : advanceAfterWrite s = .on u) :
    u.drained.device.ddram = s.drained.device.ddram := by
  rcases advanceAfterWrite_on h with ⟨-, rfl⟩ | ⟨-, col, row, h⟩
  · rw [drained_device_setCursor]
  · rw [moveTo_on_drained h, Device.setAddress_ddram]

/-- A successful `WRCH` is one write of DDRAM, at the counter (20_memory.md R61). -/
theorem exec_wrch_ddram {d : Byte} {s t : State} (hs : s.inited = true)
    (he : exec (.wrch d) s = .next t) (hok : t.status = .ok) :
    t.drained.device.ddram = s.drained.device.ddram.write s.drained.device.ac d := by
  obtain ⟨v, u, hv, hadv, rfl⟩ := exec_wrch_ok hs he hok
  rw [drained_device_reply, advanceAfterWrite_on_ddram hadv, tryTransfer_on_drained hv]
  rfl

theorem cursorAddress_eq (s : State) :
    s.cursorAddress = rowBase s.params s.curRow + BitVec.ofNat 7 s.curCol.toNat := by
  rw [State.cursorAddress, resolve, clampRow_rowOperand]
  rfl

/-- Settles O50: the one write is at the counter, which is the cursor's cell. -/
theorem wrchLandsOnTheCursorCell : Obligations.WrchLandsOnTheCursorCell := by
  intro d s t _ hp hsync he hok
  obtain ⟨hb, hcol, hac⟩ := synced_iff.mp hsync
  obtain ⟨-, hparams, -⟩ := exec_host_frame rfl he
  rw [State.cell, drained_params, hparams, exec_wrch_ddram hb.inited he hok, hac, cursorAddress_eq]
  refine ⟨Memory.read_write_same _ _ d, fun a ha => Memory.read_write_other _ d ?_⟩
  rintro rfl
  exact ha (cellAddress_toNat hp _ (Nat.lt_succ_of_le hcol))

theorem Device.storeData_ac_dec {d : Device} (v : Byte) (h : d.dir = .dec) :
    (d.storeData v).ac = d.ac - 1 := by
  simp [Device.storeData, Device.stepAc, h]

/-- Settles O55: the device steps down from the cell it has stored, and the column steps up. -/
theorem decrementDirectionSeparatesTheCursor :
    Obligations.DecrementDirectionSeparatesTheCursor := by
  intro d s t _ hs hcol hdir hac he hok
  obtain ⟨v, u, hv, hadv, rfl⟩ := exec_wrch_ok hs he hok
  have hvcol : v.curCol = s.curCol := by rw [tryTransfer_on hv, transfer_curCol]
  have hlt : v.curCol.toNat < Config.lastCol := hvcol ▸ Nat.lt_succ_of_le hcol
  rw [advanceAfterWrite_plain hlt] at hadv
  cases hadv
  refine ⟨congrArg (· + 1) hvcol, ?_, ?_⟩
  · rw [drained_device_reply]
    refine (congrArg Device.ac
      ((drained_device_setCursor v _ v.curRow).trans (tryTransfer_on_drained hv))).trans ?_
    exact hac ▸ Device.storeData_ac_dec d hdir
  · exact (cursorAddress_step hlt).trans (congrArg (· + 1) (tryTransfer_on_cursorAddress hv))

/-- A raw byte that does not time out reaches the device last and leaves the cursor
(40_transport.md R114). -/
theorem exec_xfer_drained {kind : Kind} {byte : Byte} {s t : State} (hs : s.inited = true)
    (he : exec (.xfer kind byte) s = .next t) (hok : t.status = .ok) :
    t.drained.device = s.drained.device.after ⟨kind, byte, true⟩ := by
  have hbus := exec_xfer_bus hs he
  rw [hok] at hbus
  exact drained_device_of_bus hbus (exec_framed (i := .xfer _ _) rfl nofun he).device

/-- A successful `MOVE_TO` has set the counter to the cursor's address, whatever it was (R211). -/
theorem exec_moveTo_drained_ac {col : Byte} {row : Nibble} {s t : State} (hs : s.inited = true)
    (hcol : col.toNat < 24) (he : exec (.moveTo col row) s = .next t) (hok : t.status = .ok) :
    t.drained.device.ac = t.cursorAddress := by
  rw [exec_moveTo_ready col row hs] at he
  obtain ⟨u, hu, rfl⟩ := Flow.on_of_ok he (fun _ _ => moveTo_raised_on_display hcol) hok
  rw [drained_device_reply, moveTo_on_drained hu]
  rfl

/-- Settles O54: the raw byte is the last that reaches the device; a `MOVE_TO` after it sends the
cursor's own address. -/
theorem rawAddressMovesOnlyTheDevice : Obligations.RawAddressMovesOnlyTheDevice := by
  intro a s t _ hs he
  have ht : t.inited = true := (exec_framed (i := .xfer _ _) rfl nofun he).inited.trans hs
  obtain ⟨hcol, hrow⟩ := exec_cursor (.inr (.inr ⟨_, _, rfl⟩)) he
  exact ⟨hcol, hrow, fun hok => (exec_xfer_drained hs he hok).trans (Device.after_setDdram ..),
    fun _ _ _ hon hu huok => exec_moveTo_drained_ac ht hon hu huok⟩

end Sys2Proof.Machine
end

section
/-! SUPPORT. The least blocking time (70_reset_and_hazards.md R224, R225): the floors of the delays
that each part of an operation adds to the trace; only a handshake by fixed delay adds any. -/

namespace Sys2Proof.Machine

/-! ## The time of a stretch of events -/

theorem leastTime_append (p : Params) (evs more : List Event) :
    leastTime p (evs ++ more) = leastTime p evs + leastTime p more := by
  fun_induction leastTime p evs with
  | case1 => exact (Nat.zero_add _).symm
  | case2 c rest ih => rw [List.cons_append, leastTime, ih, Nat.add_assoc]
  | case3 | case4 | case5 | case6 | case7 | case8 | case9 => assumption

theorem leastTime_writeEvents (p : Params) (bus8 : Bool) (kind : Kind) (byte : Byte) :
    leastTime p (writeEvents bus8 kind byte) = 0 := by
  cases bus8 <;> rfl

/-- A poll has no floor of its own (R225). -/
theorem leastTime_pollEvents (p : Params) (bus8 : Bool) (answers : List Bool) :
    leastTime p (pollEvents bus8 answers) = 0 := by
  have hread : ∀ busy, leastTime p (readEvents bus8 busy) = 0 := by
    intro busy
    cases bus8 <;> rfl
  induction answers with
  | nil => rfl
  | cons busy answers ih =>
    rw [pollEvents, List.flatMap_cons, leastTime_append, hread, ← pollEvents, ih]

/-- From `s` to `t` the record of the pins has grown by events whose delays sum to `n`. -/
def Took (p : Params) (n : Nat) (s t : State) : Prop :=
  ∃ evs, t.trace = s.trace ++ evs ∧ leastTime p evs = n

section
variable {p : Params} {n m : Nat} {s t u : State}

theorem Took.of_trace_eq (h : t.trace = s.trace) : Took p 0 s t :=
  ⟨[], by rw [h, List.append_nil], rfl⟩

theorem Took.trans (h : Took p n s t) (h' : Took p m t u) : Took p (n + m) s u := by
  obtain ⟨evs, ht, rfl⟩ := h
  obtain ⟨evs', hu, rfl⟩ := h'
  exact ⟨evs ++ evs', by rw [hu, ht, List.append_assoc], leastTime_append ..⟩

theorem Took.leastTime_drop (h : Took p n s t) :
    leastTime p (t.trace.drop s.trace.length) = n := by
  obtain ⟨evs, ht, rfl⟩ := h
  rw [ht, List.drop_left]

end

/-! ## `INIT` -/

/-- A byte sent with a fixed delay takes the floor of its class. -/
theorem sentFixed_took (p : Params) (kind : Kind) (byte : Byte) (s : State) :
    Took p (delayFloor p (classOf kind byte)) s (sentFixed kind byte s) :=
  ⟨_, sentFixed_trace kind byte s, by
    rw [leastTime_append, leastTime_writeEvents, Nat.zero_add]
    exact Nat.add_zero _⟩

/-- The power-up delay, three short ones and a long one (42_display_ops.md R150). -/
theorem initSequence_took (p : Params) (s : State) :
    Took p (p.tPwr + p.tShort + p.tShort + p.tLong + p.tShort) s (initSequence s) := by
  have hpower : Took p p.tPwr s { s with trace := s.trace ++ [.dly .pwr] } :=
    ⟨[.dly .pwr], rfl, Nat.add_zero _⟩
  have h := (((hpower.trans (sentFixed_took p .command
    (cmdFunctionByte s.modeBus8 s.modeTwoLine s.modeFont11) _)).trans (sentFixed_took p .command
    (cmdDisplayByte true s.modeCursor s.modeBlink) _)).trans (sentFixed_took p .command 0x01
    _)).trans (sentFixed_took p .command (cmdEntryByte s.modeInc) _)
  rw [classOf_cmdFunctionByte, classOf_cmdDisplayByte, classOf_cmdEntryByte] at h
  rw [initSequence_eq]
  exact h

theorem exec_init_took {mode : Byte} {s t : State} (p : Params)
    (he : exec (.init mode) s = .next t) :
    Took p (p.tPwr + p.tShort + p.tShort + p.tLong + p.tShort) s t := by
  cases he
  exact initSequence_took p { s with mode := mode }

/-! ## Polling modes -/

/-- A polling block has come from `s` to `u` without a delay (R225). -/
structure Undelayed (p : Params) (s u : State) : Prop where
  polling : u.modePoll = true
  took : Took p 0 s u

namespace Undelayed

variable {p : Params} {s u : State}

/-- Only what writes the mode or the record of the pins matters. -/
theorem congr {v : State} (h : Undelayed p s u) (hmode : v.mode = u.mode)
    (htrace : v.trace = u.trace) : Undelayed p s v :=
  ⟨(congrArg (·.getLsbD 7) hmode).trans h.polling, h.took.trans (.of_trace_eq htrace)⟩

theorem setCursor (h : Undelayed p s u) (col : BitVec 5) (row : BitVec 1) :
    Undelayed p s (u.setCursor col row) := h.congr rfl rfl

/-- A transfer that polls adds the events of the byte and of its busy reads. -/
theorem tryTransfer (h : Undelayed p s u) (kind : Kind) (byte : Byte) :
    Undelayed p s (Machine.tryTransfer kind byte u).state := by
  obtain ⟨bs, ans, draws, -, -, hsent⟩ := transfer_spec kind byte false u
  have htook : Took p 0 u (transfer kind byte false u).2 := by
    refine ⟨writeEvents u.modeBus8 kind byte ++ pollEvents u.modeBus8 bs, ?_, ?_⟩
    · rw [hsent, waitEvents, h.polling, List.append_assoc]
      rfl
    · rw [leastTime_append, leastTime_writeEvents, leastTime_pollEvents]
  rw [tryTransfer_state]
  exact ⟨(congrArg (·.getLsbD 7) (transfer_mode ..)).trans h.polling, h.took.trans htook⟩

theorem andThen {f : Flow} {k : State → Flow} (h : Undelayed p s f.state)
    (hk : ∀ v, Undelayed p s v → Undelayed p s (k v).state) :
    Undelayed p s (f.andThen k).state := by
  cases f with
  | on v => exact hk v h
  | raised err v => exact h

theorem moveTo (h : Undelayed p s u) (col : Byte) (row : Nibble) :
    Undelayed p s (Machine.moveTo col row u).state := by
  unfold Machine.moveTo
  split
  · exact h
  · exact (h.setCursor _ _).tryTransfer _ _

theorem advance (h : Undelayed p s u) : Undelayed p s (advanceAfterWrite u).state := by
  unfold advanceAfterWrite
  split
  · exact h.setCursor _ _
  · split <;> exact h.moveTo _ _

theorem write (h : Undelayed p s u) (d : Byte) :
    Undelayed p s ((Machine.tryTransfer .data d u).andThen advanceAfterWrite).state :=
  (h.tryTransfer .data d).andThen fun _ hv => hv.advance

theorem spaces (h : Undelayed p s u) (n : Nat) : Undelayed p s (writeSpaces n u).state := by
  induction n generalizing u with
  | zero => exact h
  | succ n ih => exact (h.write space).andThen fun _ hv => ih hv

theorem finish {f : Flow} (h : Undelayed p s f.state) : Undelayed p s f.finish := by
  obtain ⟨st, hst⟩ := f.finish_eq
  rw [hst]
  exact h.congr rfl rfl

end Undelayed

/-- Every operation of a polling block but `INIT` waits without a floor (R225). -/
theorem exec_undelayed (p : Params) {i : Instr} {s t : State} (hi : i.isHostOp = true)
    (hn : ∀ m, i ≠ .init m) (hs : s.inited = true) (hp : s.modePoll = true)
    (he : exec i s = .next t) : Undelayed p s t := by
  have h : Undelayed p s s := ⟨hp, .of_trace_eq rfl⟩
  have main : ∀ {f : Flow}, (.next f.finish : Result) = .next t → Undelayed p s f.state →
      Undelayed p s t := by
    rintro f ⟨⟩ hf
    exact hf.finish
  cases i with
  | init m => exact absurd rfl (hn m)
  | wrch d =>
    rw [exec_wrch_ready d hs] at he
    exact main he (h.write d)
  | moveTo col row =>
    rw [exec_moveTo_ready col row hs] at he
    exact main he (h.moveTo col row)
  | homeTop =>
    rw [exec_homeTop, exec_moveTo_ready 0 0 hs] at he
    exact main he (h.moveTo 0 0)
  | homeBot =>
    rw [exec_homeBot, exec_moveTo_ready 0 1 hs] at he
    exact main he (h.moveTo 0 1)
  | clearAll =>
    rw [exec_clearAll_ready hs] at he
    exact main he ((h.tryTransfer _ _).andThen fun _ hv => hv.setCursor 0 0)
  | clearRow row =>
    rw [exec_clearRow_ready row hs] at he
    exact main he (((h.moveTo 0 _).andThen fun _ hv => hv.spaces _).andThen
      fun _ hv => hv.moveTo 0 _)
  | togglePower =>
    rw [exec_togglePower_ready hs] at he
    exact main he ((h.congr (v := { s with pwrOn := !s.pwrOn }) rfl rfl).tryTransfer _ _)
  | remain =>
    rw [exec_remain_ready hs] at he
    cases he
    exact h.congr rfl rfl
  | xfer kind byte =>
    rw [exec_xfer_ready kind byte hs] at he
    exact main he (h.tryTransfer kind byte)
  | _ => cases hi

/-! ## Fixed-delay modes -/

/-- In a fixed-delay mode the flow has gone on from `s`, after delays that sum to `n`. -/
def Spends (p : Params) (n : Nat) (s : State) (f : Flow) : Prop :=
  ∃ u, f = .on u ∧ u.modePoll = false ∧ Took p n s u

theorem Took.andThen {p : Params} {n m : Nat} {s u : State} {k : State → Flow}
    (h : Took p n s u) (h' : Spends p m u (k u)) :
    Spends p (n + m) s ((Flow.on u).andThen k) := by
  obtain ⟨v, hv, hp, htook⟩ := h'
  exact ⟨v, hv, hp, h.trans htook⟩

theorem Spends.andThen {p : Params} {n m : Nat} {s : State} {f : Flow} {k : State → Flow}
    (h : Spends p n s f) (hk : ∀ u : State, u.modePoll = false → Spends p m u (k u)) :
    Spends p (n + m) s (f.andThen k) := by
  obtain ⟨u, rfl, hp, htook⟩ := h
  exact htook.andThen (hk u hp)

theorem Spends.finish {p : Params} {n : Nat} {s : State} {f : Flow} (h : Spends p n s f) :
    Took p n s f.finish := by
  obtain ⟨u, rfl, -, htook⟩ := h
  exact htook

section
variable (p : Params) {s : State} (hp : s.modePoll = false)
include hp

/-- A transfer goes on after its delay (40_transport.md R104). -/
theorem tryTransfer_fixed (kind : Kind) (byte : Byte) :
    tryTransfer kind byte s = .on (sentFixed kind byte s) := by
  rw [tryTransfer, transfer_eq_sentFixed (by simp [hp])]

theorem tryTransfer_spends (kind : Kind) (byte : Byte) :
    Spends p (delayFloor p (classOf kind byte)) s (tryTransfer kind byte s) :=
  ⟨_, tryTransfer_fixed hp kind byte, hp, sentFixed_took p kind byte s⟩

/-- `move_to` a position of the display goes on after the delay of its address, with the cursor in
the column (41_addressing_cursor.md R132). -/
theorem moveTo_fixed {col : Byte} (row : Nibble) (hcol : col.toNat < 24) :
    ∃ u, moveTo col row s = .on u ∧ u.modePoll = false ∧ u.curCol = col.setWidth 5 ∧
      Took p p.tShort s u := by
  have hshort : ∀ a, classOf .command (cmdSetDdramByte a) = .short := by decide +kernel
  have hon : ¬Config.cols ≤ col.toNat := Nat.not_le.mpr hcol
  have htook := sentFixed_took p .command
    (cmdSetDdramByte (resolve s.params col (rowOperand (clampRow row))))
    (s.setCursor (col.setWidth 5) (clampRow row))
  rw [hshort] at htook
  refine ⟨_, ?_, ?_, ?_, htook⟩
  · rw [moveTo, if_neg hon]
    exact tryTransfer_fixed (s := s.setCursor (col.setWidth 5) (clampRow row)) hp _ _
  · exact hp
  · rfl

theorem moveTo_spends {col : Byte} (row : Nibble) (hcol : col.toNat < 24) :
    Spends p p.tShort s (moveTo col row s) := by
  obtain ⟨u, hu, hup, -, htook⟩ := moveTo_fixed p hp row hcol
  exact ⟨u, hu, hup, htook⟩

/-- A full row takes the time of an address, whether it wraps or not (R136, R137). -/
theorem advanceAfterWrite_spends (hcol : ¬s.curCol.toNat < Config.lastCol) :
    Spends p p.tShort s (advanceAfterWrite s) := by
  rw [advanceAfterWrite, if_neg hcol]
  split
  · exact moveTo_spends p hp _ (by decide)
  · exact moveTo_spends p hp _ (by decide)

/-- A character at the last column takes the time of its byte and of an address. -/
theorem write_spends_rowFull (d : Byte) (hcol : ¬s.curCol.toNat < Config.lastCol) :
    Spends p (p.tShort + p.tShort) s ((tryTransfer .data d s).andThen advanceAfterWrite) := by
  rw [tryTransfer_fixed hp]
  exact (sentFixed_took p .data d s).andThen
    (advanceAfterWrite_spends p (s := sentFixed .data d s) hp hcol)

/-- A character before the last column goes on after the delay of its byte. -/
theorem write_fixed_plain (d : Byte) (hcol : s.curCol.toNat < Config.lastCol) :
    (tryTransfer .data d s).andThen advanceAfterWrite =
      .on ((sentFixed .data d s).setCursor (s.curCol + 1) s.curRow) := by
  rw [tryTransfer_fixed hp]
  exact advanceAfterWrite_plain (s := sentFixed .data d s) hcol

theorem write_spends_plain (d : Byte) (hcol : s.curCol.toNat < Config.lastCol) :
    Spends p p.tShort s ((tryTransfer .data d s).andThen advanceAfterWrite) :=
  ⟨_, write_fixed_plain hp d hcol, hp, sentFixed_took p .data d s⟩

end

/-- The spaces that fill a row from a column on take a delay each, and one for the address after
them (42_display_ops.md R158). -/
theorem writeSpaces_spends (p : Params) {n : Nat} {s : State} (hp : s.modePoll = false)
    (hcol : s.curCol.toNat + n = Config.lastCol) :
    Spends p ((n + 2) * p.tShort) s (writeSpaces (n + 1) s) := by
  induction n generalizing s with
  | zero =>
    have h := (write_spends_rowFull p hp space hcol.not_lt).andThen (m := 0) (k := .on)
      fun u hu => ⟨u, rfl, hu, .of_trace_eq rfl⟩
    rw [Nat.add_zero, ← Nat.two_mul] at h
    exact h
  | succ n ih =>
    have hplain : s.curCol.toNat < Config.lastCol := by omega
    have hrest := ih (s := (sentFixed .data space s).setCursor (s.curCol + 1) s.curRow) hp
      (by rw [State.setCursor_curCol, curCol_step hplain]; omega)
    have hfirst : Took p p.tShort s
        ((sentFixed .data space s).setCursor (s.curCol + 1) s.curRow) :=
      sentFixed_took p .data space s
    rw [writeSpaces, write_fixed_plain hp space hplain, Nat.succ_mul, Nat.add_comm _ p.tShort]
    exact hfirst.andThen hrest

/-- 27 delays: of the first address, of the spaces with the address after them, and of the last
address. -/
theorem clearRow_spends (p : Params) {s : State} (hp : s.modePoll = false) (r : Nibble) :
    Spends p (p.tShort + 25 * p.tShort + p.tShort) s
      (((moveTo 0 r s).andThen (writeSpaces Config.cols)).andThen (moveTo 0 r)) := by
  obtain ⟨u, hu, hup, hcol, htook⟩ := moveTo_fixed p hp (col := 0) r (by decide)
  have hspaces : Spends p (25 * p.tShort) u (writeSpaces Config.cols u) :=
    writeSpaces_spends p hup (by rw [hcol]; rfl)
  rw [hu]
  exact (htook.andThen hspaces).andThen fun v hv => moveTo_spends p hv r (by decide)

/-! ## The table of R225 -/

/-- A rejected operation adds nothing to the record of the pins (60_exceptions.md R183). -/
theorem exec_rejected_took (p : Params) {i : Instr} {s t : State} (hi : i.isHostOp = true)
    (hn : ∀ m, i ≠ .init m) (hs : s.inited = false) (he : exec i s = .next t) : Took p 0 s t := by
  rw [exec_rejected hi hn hs] at he
  cases he
  exact .of_trace_eq rfl

section
variable (p : Params) {s t : State} (hs : s.inited = true) (hp : s.modePoll = false)
include hs hp

theorem exec_wrch_took {d : Byte} (he : exec (.wrch d) s = .next t) :
    Took p (if s.curCol.toNat ≤ 22 then p.tShort else p.tShort + p.tShort) s t := by
  rw [exec_wrch_ready d hs] at he
  cases he
  split
  · next hcol => exact (write_spends_plain p hp d (Nat.lt_succ_of_le hcol)).finish
  · next hcol =>
    exact (write_spends_rowFull p hp d fun hlt => hcol (Nat.le_of_lt_succ hlt)).finish

theorem exec_moveTo_took {col : Byte} {row : Nibble} (he : exec (.moveTo col row) s = .next t) :
    Took p (if col.toNat < 24 then p.tShort else 0) s t := by
  split
  · next hcol =>
    rw [exec_moveTo_ready col row hs] at he
    cases he
    exact (moveTo_spends p hp row hcol).finish
  · next hcol =>
    rw [exec_moveTo_off_display row hs (Nat.le_of_not_lt hcol)] at he
    cases he
    exact .of_trace_eq rfl

theorem exec_clearAll_took (he : exec .clearAll s = .next t) : Took p p.tLong s t := by
  rw [exec_clearAll_ready hs, tryTransfer_fixed hp] at he
  cases he
  exact sentFixed_took p .command cmdClearByte s

theorem exec_clearRow_took {row : Nibble} (he : exec (.clearRow row) s = .next t) :
    Took p (p.tShort + 25 * p.tShort + p.tShort) s t := by
  rw [exec_clearRow_ready row hs] at he
  cases he
  exact (clearRow_spends p hp _).finish

theorem exec_togglePower_took (he : exec .togglePower s = .next t) : Took p p.tShort s t := by
  have h := (tryTransfer_spends p (s := { s with pwrOn := !s.pwrOn }) hp .command
    (cmdDisplayByte (!s.pwrOn) s.modeCursor s.modeBlink)).finish
  rw [classOf_cmdDisplayByte] at h
  rw [exec_togglePower_ready hs] at he
  cases he
  exact h

theorem exec_xfer_took {kind : Kind} {byte : Byte} (he : exec (.xfer kind byte) s = .next t) :
    Took p (delayFloor p (classOf kind byte)) s t := by
  rw [exec_xfer_ready kind byte hs] at he
  cases he
  exact (tryTransfer_spends p hp kind byte).finish

end

/-- The floor of a transfer with the times of 00_scope.md R6 (40_transport.md R103). -/
theorem delayFloor_classOf {p : Params} (hshort : p.tShort = 43) (hlong : p.tLong = 1500)
    (kind : Kind) (byte : Byte) :
    delayFloor p (classOf kind byte) =
      if kind = .command ∧ (byte = 0x01 ∨ byte = 0x02 ∨ byte = 0x03) then 1500 else 43 := by
  rw [waitClassIsLongForClearAndHome kind byte]
  split
  · exact hlong
  · exact hshort

/-- Settles O57: `INIT` in every mode, the table of a fixed-delay mode operation by operation, and
no delay in a polling mode or before `INIT`. -/
theorem leastBlockingTimes : Obligations.LeastBlockingTimes := by
  intro i s t hi _ he hshort hlong
  refine ⟨?_, fun hn hs hp => ?_, fun hn h => ?_⟩
  · rintro mode rfl
    rw [(exec_init_took s.params he).leastTime_drop, hshort, hlong]
  · cases i with
    | init mode => exact absurd rfl (hn mode)
    | wrch d => rw [(exec_wrch_took s.params hs hp he).leastTime_drop, hshort]
    | moveTo col row => rw [(exec_moveTo_took s.params hs hp he).leastTime_drop, hshort]
    | homeTop =>
      rw [exec_homeTop] at he
      exact (exec_moveTo_took s.params hs hp he).leastTime_drop.trans hshort
    | homeBot =>
      rw [exec_homeBot] at he
      exact (exec_moveTo_took s.params hs hp he).leastTime_drop.trans hshort
    | clearAll => rw [(exec_clearAll_took s.params hs hp he).leastTime_drop, hlong]
    | clearRow row => rw [(exec_clearRow_took s.params hs hp he).leastTime_drop, hshort]
    | togglePower => rw [(exec_togglePower_took s.params hs hp he).leastTime_drop, hshort]
    | remain =>
      rw [exec_remain_ready hs] at he
      cases he
      exact (Took.of_trace_eq rfl).leastTime_drop
    | xfer kind byte =>
      rw [(exec_xfer_took s.params hs hp he).leastTime_drop, delayFloor_classOf hshort hlong]
    | _ => cases hi
  · rcases Bool.dichotomy s.inited with hs | hs
    · exact (exec_rejected_took s.params hi hn hs he).leastTime_drop
    · have hp : s.modePoll = true := h.resolve_left (by simp [hs])
      exact (exec_undelayed s.params hi hn hs hp he).took.leastTime_drop

end Sys2Proof.Machine
end
